-- ==== Sys2Proof/Word.lean ====
section
/-! DEFINITION. The two word types of the M68HC11 (R6): a memory cell and an 8-bit register hold a
`Byte`, a 16-bit register and an address hold a `Word`. -/

namespace Sys2Proof

/-- A memory cell, an accumulator, an operand byte: 8 bits (R6). -/
abbrev Byte := BitVec 8

/-- An index register, SP, PC, an address: 16 bits (R6). -/
abbrev Word := BitVec 16

end Sys2Proof
end

