-- ==== Sys2Proof/Syntax.lean ====
section
/-! DEFINITION. The instructions of Table 1 as syntax. A line of spec/opcode_table.json is a pair of a
mnemonic and an addressing mode; `Instr` has one constructor per mnemonic, and the addressing mode is
its operand form, so that every line is one constructor at one operand form (R82, R97). -/

namespace Sys2Proof

/-- The memory addressing modes (R82, R124, R125, R126), with the operand bytes as values. -/
inductive Mem where
  /-- DIR: the address is `$00 : dd` -/
  | dir (dd : Byte)
  /-- EXT: the address is `hh : ll` -/
  | ext (hhll : Word)
  /-- IND,X: the address is `IX + ff` -/
  | indX (ff : Byte)
  /-- IND,Y: the address is `IY + ff` -/
  | indY (ff : Byte)
deriving DecidableEq, Repr

/-- The source of an 8-bit operation (R123, R129): the immediate ii, or the byte in memory. -/
inductive Src8 where
  | imm (ii : Byte)
  | mem (m : Mem)
deriving DecidableEq, Repr

/-- The source of a 16-bit operation (R123, R129): the immediate `jj : kk`, or two bytes in memory. -/
inductive Src16 where
  | imm (jjkk : Word)
  | mem (m : Mem)
deriving DecidableEq, Repr

/-- The 145 mnemonics of Table 1, in the table's order. BHS, BLO, LSL, LSLA, LSLB and LSLD are second
names of BCC, BCS, ASL, ASLA, ASLB and ASLD (R91, log 16). -/
inductive Instr where
  /-- ABA (R200): Add Accumulators -/
  | aba
  /-- ABX (R201): Add B to X -/
  | abx
  /-- ABY (R202): Add B to Y -/
  | aby
  /-- ADCA (R203): Add with Carry to A -/
  | adca (o : Src8)
  /-- ADCB (R204): Add with Carry to B -/
  | adcb (o : Src8)
  /-- ADDA (R205): Add Memory to A -/
  | adda (o : Src8)
  /-- ADDB (R206): Add Memory to B -/
  | addb (o : Src8)
  /-- ADDD (R207): Add 16-Bit to D -/
  | addd (o : Src16)
  /-- ANDA (R208): AND A with Memory -/
  | anda (o : Src8)
  /-- ANDB (R209): AND B with Memory -/
  | andb (o : Src8)
  /-- ASL (R210): Arithmetic Shift Left -/
  | asl (m : Mem)
  /-- ASLA (R211): Arithmetic Shift Left A -/
  | asla
  /-- ASLB (R212): Arithmetic Shift Left B -/
  | aslb
  /-- ASLD (R213): Arithmetic Shift Left D -/
  | asld
  /-- ASR (R220): Arithmetic Shift Right -/
  | asr (m : Mem)
  /-- ASRA (R221): Arithmetic Shift Right A -/
  | asra
  /-- ASRB (R222): Arithmetic Shift Right B -/
  | asrb
  /-- BCC (R223): Branch if Carry Clear -/
  | bcc (rr : Byte)
  /-- BCLR (R224): Clear Bit(s) -/
  | bclr (m : Mem) (mm : Byte)
  /-- BCS (R225): Branch if Carry Set -/
  | bcs (rr : Byte)
  /-- BEQ (R226): Branch if = Zero -/
  | beq (rr : Byte)
  /-- BGE (R227): Branch if ≥ Zero -/
  | bge (rr : Byte)
  /-- BGT (R228): Branch if > Zero -/
  | bgt (rr : Byte)
  /-- BHI (R229): Branch if Higher -/
  | bhi (rr : Byte)
  /-- BHS (R230): Branch if Higher or Same -/
  | bhs (rr : Byte)
  /-- BITA (R231): Bit(s) Test A with Memory -/
  | bita (o : Src8)
  /-- BITB (R232): Bit(s) Test B with Memory -/
  | bitb (o : Src8)
  /-- BLE (R233): Branch if ≤ Zero -/
  | ble (rr : Byte)
  /-- BLO (R234): Branch if Lower -/
  | blo (rr : Byte)
  /-- BLS (R235): Branch if Lower or Same -/
  | bls (rr : Byte)
  /-- BLT (R236): Branch if < Zero -/
  | blt (rr : Byte)
  /-- BMI (R237): Branch if Minus -/
  | bmi (rr : Byte)
  /-- BNE (R238): Branch if not = Zero -/
  | bne (rr : Byte)
  /-- BPL (R239): Branch if Plus -/
  | bpl (rr : Byte)
  /-- BRA (R240): Branch Always -/
  | bra (rr : Byte)
  /-- BRCLR (R241): Branch if Bit(s) Clear -/
  | brclr (m : Mem) (mm rr : Byte)
  /-- BRN (R242): Branch Never -/
  | brn (rr : Byte)
  /-- BRSET (R243): Branch if Bit(s) Set -/
  | brset (m : Mem) (mm rr : Byte)
  /-- BSET (R244): Set Bit(s) -/
  | bset (m : Mem) (mm : Byte)
  /-- BSR (R245): Branch to Subroutine -/
  | bsr (rr : Byte)
  /-- BVC (R246): Branch if Overflow Clear -/
  | bvc (rr : Byte)
  /-- BVS (R260): Branch if Overflow Set -/
  | bvs (rr : Byte)
  /-- CBA (R261): Compare A to B -/
  | cba
  /-- CLC (R262): Clear Carry Bit -/
  | clc
  /-- CLI (R263): Clear Interrupt Mask -/
  | cli
  /-- CLR (R264): Clear Memory Byte -/
  | clr (m : Mem)
  /-- CLRA (R265): Clear Accumulator A -/
  | clra
  /-- CLRB (R266): Clear Accumulator B -/
  | clrb
  /-- CLV (R267): Clear Overflow Flag -/
  | clv
  /-- CMPA (R268): Compare A to Memory -/
  | cmpa (o : Src8)
  /-- CMPB (R269): Compare B to Memory -/
  | cmpb (o : Src8)
  /-- COM (R270): Ones Complement Memory Byte -/
  | com (m : Mem)
  /-- COMA (R271): Ones Complement A -/
  | coma
  /-- COMB (R272): Ones Complement B -/
  | comb
  /-- CPD (R273): Compare D to Memory 16-Bit -/
  | cpd (o : Src16)
  /-- CPX (R274): Compare X to Memory 16-Bit -/
  | cpx (o : Src16)
  /-- CPY (R275): Compare Y to Memory 16-Bit -/
  | cpy (o : Src16)
  /-- DAA (R276): Decimal Adjust A -/
  | daa
  /-- DEC (R277): Decrement Memory Byte -/
  | dec (m : Mem)
  /-- DECA (R278): Decrement Accumulator A -/
  | deca
  /-- DECB (R279): Decrement Accumulator B -/
  | decb
  /-- DES (R290): Decrement Stack Pointer -/
  | des
  /-- DEX (R291): Decrement Index Register X -/
  | dex
  /-- DEY (R292): Decrement Index Register Y -/
  | dey
  /-- EORA (R293): Exclusive OR A with Memory -/
  | eora (o : Src8)
  /-- EORB (R294): Exclusive OR B with Memory -/
  | eorb (o : Src8)
  /-- FDIV (R295): Fractional Divide 16 by 16 -/
  | fdiv
  /-- IDIV (R296): Integer Divide 16 by 16 -/
  | idiv
  /-- INC (R297): Increment Memory Byte -/
  | inc (m : Mem)
  /-- INCA (R298): Increment Accumulator A -/
  | inca
  /-- INCB (R299): Increment Accumulator B -/
  | incb
  /-- INS (R300): Increment Stack Pointer -/
  | ins
  /-- INX (R301): Increment Index Register X -/
  | inx
  /-- INY (R302): Increment Index Register Y -/
  | iny
  /-- JMP (R303): Jump -/
  | jmp (m : Mem)
  /-- JSR (R304): Jump to Subroutine -/
  | jsr (m : Mem)
  /-- LDAA (R305): Load Accumulator A -/
  | ldaa (o : Src8)
  /-- LDAB (R306): Load Accumulator B -/
  | ldab (o : Src8)
  /-- LDD (R307): Load Double Accumulator D -/
  | ldd (o : Src16)
  /-- LDS (R320): Load Stack Pointer -/
  | lds (o : Src16)
  /-- LDX (R321): Load Index Register X -/
  | ldx (o : Src16)
  /-- LDY (R322): Load Index Register Y -/
  | ldy (o : Src16)
  /-- LSL (R323): Logical Shift Left -/
  | lsl (m : Mem)
  /-- LSLA (R324): Logical Shift Left A -/
  | lsla
  /-- LSLB (R325): Logical Shift Left B -/
  | lslb
  /-- LSLD (R326): Logical Shift Left Double -/
  | lsld
  /-- LSR (R327): Logical Shift Right -/
  | lsr (m : Mem)
  /-- LSRA (R328): Logical Shift Right A -/
  | lsra
  /-- LSRB (R329): Logical Shift Right B -/
  | lsrb
  /-- LSRD (R330): Logical Shift Right Double -/
  | lsrd
  /-- MUL (R331): Multiply 8 by 8 -/
  | mul
  /-- NEG (R332): Two's Complement Memory Byte -/
  | neg (m : Mem)
  /-- NEGA (R333): Two's Complement A -/
  | nega
  /-- NEGB (R334): Two's Complement B -/
  | negb
  /-- NOP (R335): No operation -/
  | nop
  /-- ORAA (R336): OR Accumulator A (Inclusive) -/
  | oraa (o : Src8)
  /-- ORAB (R337): OR Accumulator B (Inclusive) -/
  | orab (o : Src8)
  /-- PSHA (R350): Push A onto Stack -/
  | psha
  /-- PSHB (R351): Push B onto Stack -/
  | pshb
  /-- PSHX (R352): Push X onto Stack (Lo First) -/
  | pshx
  /-- PSHY (R353): Push Y onto Stack (Lo First) -/
  | pshy
  /-- PULA (R354): Pull A from Stack -/
  | pula
  /-- PULB (R355): Pull B from Stack -/
  | pulb
  /-- PULX (R356): Pull X From Stack (Hi First) -/
  | pulx
  /-- PULY (R357): Pull Y from Stack (Hi First) -/
  | puly
  /-- ROL (R358): Rotate Left -/
  | rol (m : Mem)
  /-- ROLA (R359): Rotate Left A -/
  | rola
  /-- ROLB (R360): Rotate Left B -/
  | rolb
  /-- ROR (R361): Rotate Right -/
  | ror (m : Mem)
  /-- RORA (R362): Rotate Right A -/
  | rora
  /-- RORB (R363): Rotate Right B -/
  | rorb
  /-- RTI (R364): Return from Interrupt -/
  | rti
  /-- RTS (R365): Return from Subroutine -/
  | rts
  /-- SBA (R366): Subtract B from A -/
  | sba
  /-- SBCA (R367): Subtract with Carry from A -/
  | sbca (o : Src8)
  /-- SBCB (R368): Subtract with Carry from B -/
  | sbcb (o : Src8)
  /-- SEC (R369): Set Carry -/
  | sec
  /-- SEI (R370): Set Interrupt Mask -/
  | sei
  /-- SEV (R371): Set Overflow Flag -/
  | sev
  /-- STAA (R380): Store Accumulator A -/
  | staa (m : Mem)
  /-- STAB (R381): Store Accumulator B -/
  | stab (m : Mem)
  /-- STD (R382): Store Accumulator D -/
  | std (m : Mem)
  /-- STOP (R383): Stop Internal Clocks -/
  | stop
  /-- STS (R384): Store Stack Pointer -/
  | sts (m : Mem)
  /-- STX (R385): Store Index Register X -/
  | stx (m : Mem)
  /-- STY (R386): Store Index Register Y -/
  | sty (m : Mem)
  /-- SUBA (R387): Subtract Memory from A -/
  | suba (o : Src8)
  /-- SUBB (R388): Subtract Memory from B -/
  | subb (o : Src8)
  /-- SUBD (R389): Subtract Memory from D -/
  | subd (o : Src16)
  /-- SWI (R390): Software Interrupt -/
  | swi
  /-- TAB (R391): Transfer A to B -/
  | tab
  /-- TAP (R392): Transfer A to CC Register -/
  | tap
  /-- TBA (R393): Transfer B to A -/
  | tba
  /-- TEST (R394): TEST (Only in Test Modes) -/
  | test
  /-- TPA (R395): Transfer CC Register to A -/
  | tpa
  /-- TST (R396): Test for Zero or Minus -/
  | tst (m : Mem)
  /-- TSTA (R397): Test A for Zero or Minus -/
  | tsta
  /-- TSTB (R398): Test B for Zero or Minus -/
  | tstb
  /-- TSX (R399): Transfer Stack Pointer to X -/
  | tsx
  /-- TSY (R410): Transfer Stack Pointer to Y -/
  | tsy
  /-- TXS (R411): Transfer X to Stack Pointer -/
  | txs
  /-- TYS (R412): Transfer Y to Stack Pointer -/
  | tys
  /-- WAI (R413): Wait for Interrupt -/
  | wai
  /-- XGDX (R414): Exchange D with X -/
  | xgdx
  /-- XGDY (R415): Exchange D with Y -/
  | xgdy
deriving DecidableEq, Repr

end Sys2Proof
end

