-- ==== Sys2Proof/WellFormed.lean ====
section
/-! DEFINITION. Which operand forms a mnemonic has (R97), and the canonical name of an instruction that
has two (R91). -/

namespace Sys2Proof

/-- The form is EXT, IND,X or IND,Y: the forms of the read-modify-write group, CLR, TST and JMP (R97). -/
def Mem.hasNoDir : Mem → Bool
  | .dir _ => false
  | .ext _ => true
  | .indX _ => true
  | .indY _ => true

/-- The form is DIR, IND,X or IND,Y: the forms of BCLR, BRCLR, BRSET and BSET (R97, R128). -/
def Mem.hasNoExt : Mem → Bool
  | .dir _ => true
  | .ext _ => false
  | .indX _ => true
  | .indY _ => true

/-- The operand form is one that Table 1 gives the mnemonic (R97). Every operand value is legal (R89). -/
def Instr.wf : Instr → Bool
  | .aba => true
  | .abx => true
  | .aby => true
  | .adca _ => true
  | .adcb _ => true
  | .adda _ => true
  | .addb _ => true
  | .addd _ => true
  | .anda _ => true
  | .andb _ => true
  | .asl m => m.hasNoDir
  | .asla => true
  | .aslb => true
  | .asld => true
  | .asr m => m.hasNoDir
  | .asra => true
  | .asrb => true
  | .bcc _ => true
  | .bclr m _ => m.hasNoExt
  | .bcs _ => true
  | .beq _ => true
  | .bge _ => true
  | .bgt _ => true
  | .bhi _ => true
  | .bhs _ => true
  | .bita _ => true
  | .bitb _ => true
  | .ble _ => true
  | .blo _ => true
  | .bls _ => true
  | .blt _ => true
  | .bmi _ => true
  | .bne _ => true
  | .bpl _ => true
  | .bra _ => true
  | .brclr m _ _ => m.hasNoExt
  | .brn _ => true
  | .brset m _ _ => m.hasNoExt
  | .bset m _ => m.hasNoExt
  | .bsr _ => true
  | .bvc _ => true
  | .bvs _ => true
  | .cba => true
  | .clc => true
  | .cli => true
  | .clr m => m.hasNoDir
  | .clra => true
  | .clrb => true
  | .clv => true
  | .cmpa _ => true
  | .cmpb _ => true
  | .com m => m.hasNoDir
  | .coma => true
  | .comb => true
  | .cpd _ => true
  | .cpx _ => true
  | .cpy _ => true
  | .daa => true
  | .dec m => m.hasNoDir
  | .deca => true
  | .decb => true
  | .des => true
  | .dex => true
  | .dey => true
  | .eora _ => true
  | .eorb _ => true
  | .fdiv => true
  | .idiv => true
  | .inc m => m.hasNoDir
  | .inca => true
  | .incb => true
  | .ins => true
  | .inx => true
  | .iny => true
  | .jmp m => m.hasNoDir
  | .jsr _ => true
  | .ldaa _ => true
  | .ldab _ => true
  | .ldd _ => true
  | .lds _ => true
  | .ldx _ => true
  | .ldy _ => true
  | .lsl m => m.hasNoDir
  | .lsla => true
  | .lslb => true
  | .lsld => true
  | .lsr m => m.hasNoDir
  | .lsra => true
  | .lsrb => true
  | .lsrd => true
  | .mul => true
  | .neg m => m.hasNoDir
  | .nega => true
  | .negb => true
  | .nop => true
  | .oraa _ => true
  | .orab _ => true
  | .psha => true
  | .pshb => true
  | .pshx => true
  | .pshy => true
  | .pula => true
  | .pulb => true
  | .pulx => true
  | .puly => true
  | .rol m => m.hasNoDir
  | .rola => true
  | .rolb => true
  | .ror m => m.hasNoDir
  | .rora => true
  | .rorb => true
  | .rti => true
  | .rts => true
  | .sba => true
  | .sbca _ => true
  | .sbcb _ => true
  | .sec => true
  | .sei => true
  | .sev => true
  | .staa _ => true
  | .stab _ => true
  | .std _ => true
  | .stop => true
  | .sts _ => true
  | .stx _ => true
  | .sty _ => true
  | .suba _ => true
  | .subb _ => true
  | .subd _ => true
  | .swi => true
  | .tab => true
  | .tap => true
  | .tba => true
  | .test => true
  | .tpa => true
  | .tst m => m.hasNoDir
  | .tsta => true
  | .tstb => true
  | .tsx => true
  | .tsy => true
  | .txs => true
  | .tys => true
  | .wai => true
  | .xgdx => true
  | .xgdy => true

/-- The first-listed name of an instruction (R91): a decoder answers BCC, BCS, ASL, ASLA, ASLB and ASLD
for BHS, BLO, LSL, LSLA, LSLB and LSLD; every other name is its own. -/
def Instr.canonical : Instr → Instr
  | .aba => .aba
  | .abx => .abx
  | .aby => .aby
  | .adca o => .adca o
  | .adcb o => .adcb o
  | .adda o => .adda o
  | .addb o => .addb o
  | .addd o => .addd o
  | .anda o => .anda o
  | .andb o => .andb o
  | .asl m => .asl m
  | .asla => .asla
  | .aslb => .aslb
  | .asld => .asld
  | .asr m => .asr m
  | .asra => .asra
  | .asrb => .asrb
  | .bcc rr => .bcc rr
  | .bclr m mm => .bclr m mm
  | .bcs rr => .bcs rr
  | .beq rr => .beq rr
  | .bge rr => .bge rr
  | .bgt rr => .bgt rr
  | .bhi rr => .bhi rr
  | .bhs rr => .bcc rr
  | .bita o => .bita o
  | .bitb o => .bitb o
  | .ble rr => .ble rr
  | .blo rr => .bcs rr
  | .bls rr => .bls rr
  | .blt rr => .blt rr
  | .bmi rr => .bmi rr
  | .bne rr => .bne rr
  | .bpl rr => .bpl rr
  | .bra rr => .bra rr
  | .brclr m mm rr => .brclr m mm rr
  | .brn rr => .brn rr
  | .brset m mm rr => .brset m mm rr
  | .bset m mm => .bset m mm
  | .bsr rr => .bsr rr
  | .bvc rr => .bvc rr
  | .bvs rr => .bvs rr
  | .cba => .cba
  | .clc => .clc
  | .cli => .cli
  | .clr m => .clr m
  | .clra => .clra
  | .clrb => .clrb
  | .clv => .clv
  | .cmpa o => .cmpa o
  | .cmpb o => .cmpb o
  | .com m => .com m
  | .coma => .coma
  | .comb => .comb
  | .cpd o => .cpd o
  | .cpx o => .cpx o
  | .cpy o => .cpy o
  | .daa => .daa
  | .dec m => .dec m
  | .deca => .deca
  | .decb => .decb
  | .des => .des
  | .dex => .dex
  | .dey => .dey
  | .eora o => .eora o
  | .eorb o => .eorb o
  | .fdiv => .fdiv
  | .idiv => .idiv
  | .inc m => .inc m
  | .inca => .inca
  | .incb => .incb
  | .ins => .ins
  | .inx => .inx
  | .iny => .iny
  | .jmp m => .jmp m
  | .jsr m => .jsr m
  | .ldaa o => .ldaa o
  | .ldab o => .ldab o
  | .ldd o => .ldd o
  | .lds o => .lds o
  | .ldx o => .ldx o
  | .ldy o => .ldy o
  | .lsl m => .asl m
  | .lsla => .asla
  | .lslb => .aslb
  | .lsld => .asld
  | .lsr m => .lsr m
  | .lsra => .lsra
  | .lsrb => .lsrb
  | .lsrd => .lsrd
  | .mul => .mul
  | .neg m => .neg m
  | .nega => .nega
  | .negb => .negb
  | .nop => .nop
  | .oraa o => .oraa o
  | .orab o => .orab o
  | .psha => .psha
  | .pshb => .pshb
  | .pshx => .pshx
  | .pshy => .pshy
  | .pula => .pula
  | .pulb => .pulb
  | .pulx => .pulx
  | .puly => .puly
  | .rol m => .rol m
  | .rola => .rola
  | .rolb => .rolb
  | .ror m => .ror m
  | .rora => .rora
  | .rorb => .rorb
  | .rti => .rti
  | .rts => .rts
  | .sba => .sba
  | .sbca o => .sbca o
  | .sbcb o => .sbcb o
  | .sec => .sec
  | .sei => .sei
  | .sev => .sev
  | .staa m => .staa m
  | .stab m => .stab m
  | .std m => .std m
  | .stop => .stop
  | .sts m => .sts m
  | .stx m => .stx m
  | .sty m => .sty m
  | .suba o => .suba o
  | .subb o => .subb o
  | .subd o => .subd o
  | .swi => .swi
  | .tab => .tab
  | .tap => .tap
  | .tba => .tba
  | .test => .test
  | .tpa => .tpa
  | .tst m => .tst m
  | .tsta => .tsta
  | .tstb => .tstb
  | .tsx => .tsx
  | .tsy => .tsy
  | .txs => .txs
  | .tys => .tys
  | .wai => .wai
  | .xgdx => .xgdx
  | .xgdy => .xgdy

end Sys2Proof
end

