-- ==== Sys2Proof/Decode.lean ====
section
/-! DEFINITION. The decoder, from the opcode maps R85 to R88, and after it the encoder, from the encoding
tables of files 41 to 48. The two are written from different tables of the spec. -/

namespace Sys2Proof

/-- `h : l`: the 16-bit value of a high-order and a low-order byte (R9, R51, R84). -/
def wordOf (h l : Byte) : Word := h ++ l

/-- Bits 15 to 8 of a 16-bit value (R9). -/
def highByte (w : Word) : Byte := w.extractLsb' 8 8

/-- Bits 7 to 0 of a 16-bit value (R9). -/
def lowByte (w : Word) : Byte := w.extractLsb' 0 8

/-- Why the bytes are no instruction. -/
inductive DecodeError where
  /-- an unassigned first byte (R89) -/
  | unassigned (b0 : Byte)
  /-- an unassigned byte after a prefix byte (R89) -/
  | unassignedAfter (b0 b1 : Byte)
  /-- the list ends before the instruction does; five bytes are always enough (R80) -/
  | truncated
deriving DecidableEq, Repr

/-- How many bytes of code the unassigned code has: `k` of R94 and R507. -/
def DecodeError.consumed : DecodeError → Nat
  | .unassigned _ => 1
  | .unassignedAfter _ _ => 2
  | .truncated => 0

/-- A decoded instruction and its length in bytes (R83, R94). -/
structure Decoded where
  instr : Instr
  length : Nat
deriving DecidableEq, Repr

/-- The fourteen operand-byte formats of R82, each with the instruction that its operands make. -/
inductive Form where
  | inh (i : Instr)
  | imm8 (f : Byte → Instr)
  | imm16 (f : Word → Instr)
  | dir (f : Mem → Instr)
  | ext (f : Mem → Instr)
  | indX (f : Mem → Instr)
  | indY (f : Mem → Instr)
  | rel (f : Byte → Instr)
  | dirMask (f : Mem → Byte → Instr)
  | indXMask (f : Mem → Byte → Instr)
  | indYMask (f : Mem → Byte → Instr)
  | dirMaskRel (f : Mem → Byte → Byte → Instr)
  | indXMaskRel (f : Mem → Byte → Byte → Instr)
  | indYMaskRel (f : Mem → Byte → Byte → Instr)

/-- Reads the operand bytes that follow the `k` bytes of prefix and opcode (R82, R84, R94). -/
def Form.read (k : Nat) : Form → List Byte → Except DecodeError Decoded
  | .inh i, _ => .ok ⟨i, k⟩
  | .imm8 f, ii :: _ => .ok ⟨f ii, k + 1⟩
  | .imm16 f, jj :: kk :: _ => .ok ⟨f (wordOf jj kk), k + 2⟩
  | .dir f, dd :: _ => .ok ⟨f (.dir dd), k + 1⟩
  | .ext f, hh :: ll :: _ => .ok ⟨f (.ext (wordOf hh ll)), k + 2⟩
  | .indX f, ff :: _ => .ok ⟨f (.indX ff), k + 1⟩
  | .indY f, ff :: _ => .ok ⟨f (.indY ff), k + 1⟩
  | .rel f, rr :: _ => .ok ⟨f rr, k + 1⟩
  | .dirMask f, dd :: mm :: _ => .ok ⟨f (.dir dd) mm, k + 2⟩
  | .indXMask f, ff :: mm :: _ => .ok ⟨f (.indX ff) mm, k + 2⟩
  | .indYMask f, ff :: mm :: _ => .ok ⟨f (.indY ff) mm, k + 2⟩
  | .dirMaskRel f, dd :: mm :: rr :: _ => .ok ⟨f (.dir dd) mm rr, k + 3⟩
  | .indXMaskRel f, ff :: mm :: rr :: _ => .ok ⟨f (.indX ff) mm rr, k + 3⟩
  | .indYMaskRel f, ff :: mm :: rr :: _ => .ok ⟨f (.indY ff) mm rr, k + 3⟩
  | _, _ => .error .truncated

/-- Row 0x of the first-byte map (R85), by the low digit. -/
def opcodeRow0 : Nat → Option Form
  | 0x0 => some (.inh .test)
  | 0x1 => some (.inh .nop)
  | 0x2 => some (.inh .idiv)
  | 0x3 => some (.inh .fdiv)
  | 0x4 => some (.inh .lsrd)
  | 0x5 => some (.inh .asld)
  | 0x6 => some (.inh .tap)
  | 0x7 => some (.inh .tpa)
  | 0x8 => some (.inh .inx)
  | 0x9 => some (.inh .dex)
  | 0xA => some (.inh .clv)
  | 0xB => some (.inh .sev)
  | 0xC => some (.inh .clc)
  | 0xD => some (.inh .sec)
  | 0xE => some (.inh .cli)
  | 0xF => some (.inh .sei)
  | _ => none

/-- Row 1x of the first-byte map (R85), by the low digit. -/
def opcodeRow1 : Nat → Option Form
  | 0x0 => some (.inh .sba)
  | 0x1 => some (.inh .cba)
  | 0x2 => some (.dirMaskRel .brset)
  | 0x3 => some (.dirMaskRel .brclr)
  | 0x4 => some (.dirMask .bset)
  | 0x5 => some (.dirMask .bclr)
  | 0x6 => some (.inh .tab)
  | 0x7 => some (.inh .tba)
  | 0x9 => some (.inh .daa)
  | 0xB => some (.inh .aba)
  | 0xC => some (.indXMask .bset)
  | 0xD => some (.indXMask .bclr)
  | 0xE => some (.indXMaskRel .brset)
  | 0xF => some (.indXMaskRel .brclr)
  | _ => none

/-- Row 2x of the first-byte map (R85), by the low digit. -/
def opcodeRow2 : Nat → Option Form
  | 0x0 => some (.rel .bra)
  | 0x1 => some (.rel .brn)
  | 0x2 => some (.rel .bhi)
  | 0x3 => some (.rel .bls)
  | 0x4 => some (.rel .bcc)
  | 0x5 => some (.rel .bcs)
  | 0x6 => some (.rel .bne)
  | 0x7 => some (.rel .beq)
  | 0x8 => some (.rel .bvc)
  | 0x9 => some (.rel .bvs)
  | 0xA => some (.rel .bpl)
  | 0xB => some (.rel .bmi)
  | 0xC => some (.rel .bge)
  | 0xD => some (.rel .blt)
  | 0xE => some (.rel .bgt)
  | 0xF => some (.rel .ble)
  | _ => none

/-- Row 3x of the first-byte map (R85), by the low digit. -/
def opcodeRow3 : Nat → Option Form
  | 0x0 => some (.inh .tsx)
  | 0x1 => some (.inh .ins)
  | 0x2 => some (.inh .pula)
  | 0x3 => some (.inh .pulb)
  | 0x4 => some (.inh .des)
  | 0x5 => some (.inh .txs)
  | 0x6 => some (.inh .psha)
  | 0x7 => some (.inh .pshb)
  | 0x8 => some (.inh .pulx)
  | 0x9 => some (.inh .rts)
  | 0xA => some (.inh .abx)
  | 0xB => some (.inh .rti)
  | 0xC => some (.inh .pshx)
  | 0xD => some (.inh .mul)
  | 0xE => some (.inh .wai)
  | 0xF => some (.inh .swi)
  | _ => none

/-- Row 4x of the first-byte map (R85), by the low digit. -/
def opcodeRow4 : Nat → Option Form
  | 0x0 => some (.inh .nega)
  | 0x3 => some (.inh .coma)
  | 0x4 => some (.inh .lsra)
  | 0x6 => some (.inh .rora)
  | 0x7 => some (.inh .asra)
  | 0x8 => some (.inh .asla)
  | 0x9 => some (.inh .rola)
  | 0xA => some (.inh .deca)
  | 0xC => some (.inh .inca)
  | 0xD => some (.inh .tsta)
  | 0xF => some (.inh .clra)
  | _ => none

/-- Row 5x of the first-byte map (R85), by the low digit. -/
def opcodeRow5 : Nat → Option Form
  | 0x0 => some (.inh .negb)
  | 0x3 => some (.inh .comb)
  | 0x4 => some (.inh .lsrb)
  | 0x6 => some (.inh .rorb)
  | 0x7 => some (.inh .asrb)
  | 0x8 => some (.inh .aslb)
  | 0x9 => some (.inh .rolb)
  | 0xA => some (.inh .decb)
  | 0xC => some (.inh .incb)
  | 0xD => some (.inh .tstb)
  | 0xF => some (.inh .clrb)
  | _ => none

/-- Row 6x of the first-byte map (R85), by the low digit. -/
def opcodeRow6 : Nat → Option Form
  | 0x0 => some (.indX .neg)
  | 0x3 => some (.indX .com)
  | 0x4 => some (.indX .lsr)
  | 0x6 => some (.indX .ror)
  | 0x7 => some (.indX .asr)
  | 0x8 => some (.indX .asl)
  | 0x9 => some (.indX .rol)
  | 0xA => some (.indX .dec)
  | 0xC => some (.indX .inc)
  | 0xD => some (.indX .tst)
  | 0xE => some (.indX .jmp)
  | 0xF => some (.indX .clr)
  | _ => none

/-- Row 7x of the first-byte map (R85), by the low digit. -/
def opcodeRow7 : Nat → Option Form
  | 0x0 => some (.ext .neg)
  | 0x3 => some (.ext .com)
  | 0x4 => some (.ext .lsr)
  | 0x6 => some (.ext .ror)
  | 0x7 => some (.ext .asr)
  | 0x8 => some (.ext .asl)
  | 0x9 => some (.ext .rol)
  | 0xA => some (.ext .dec)
  | 0xC => some (.ext .inc)
  | 0xD => some (.ext .tst)
  | 0xE => some (.ext .jmp)
  | 0xF => some (.ext .clr)
  | _ => none

/-- Row 8x of the first-byte map (R85), by the low digit. -/
def opcodeRow8 : Nat → Option Form
  | 0x0 => some (.imm8 fun v => .suba (.imm v))
  | 0x1 => some (.imm8 fun v => .cmpa (.imm v))
  | 0x2 => some (.imm8 fun v => .sbca (.imm v))
  | 0x3 => some (.imm16 fun v => .subd (.imm v))
  | 0x4 => some (.imm8 fun v => .anda (.imm v))
  | 0x5 => some (.imm8 fun v => .bita (.imm v))
  | 0x6 => some (.imm8 fun v => .ldaa (.imm v))
  | 0x8 => some (.imm8 fun v => .eora (.imm v))
  | 0x9 => some (.imm8 fun v => .adca (.imm v))
  | 0xA => some (.imm8 fun v => .oraa (.imm v))
  | 0xB => some (.imm8 fun v => .adda (.imm v))
  | 0xC => some (.imm16 fun v => .cpx (.imm v))
  | 0xD => some (.rel .bsr)
  | 0xE => some (.imm16 fun v => .lds (.imm v))
  | 0xF => some (.inh .xgdx)
  | _ => none

/-- Row 9x of the first-byte map (R85), by the low digit. -/
def opcodeRow9 : Nat → Option Form
  | 0x0 => some (.dir fun m => .suba (.mem m))
  | 0x1 => some (.dir fun m => .cmpa (.mem m))
  | 0x2 => some (.dir fun m => .sbca (.mem m))
  | 0x3 => some (.dir fun m => .subd (.mem m))
  | 0x4 => some (.dir fun m => .anda (.mem m))
  | 0x5 => some (.dir fun m => .bita (.mem m))
  | 0x6 => some (.dir fun m => .ldaa (.mem m))
  | 0x7 => some (.dir .staa)
  | 0x8 => some (.dir fun m => .eora (.mem m))
  | 0x9 => some (.dir fun m => .adca (.mem m))
  | 0xA => some (.dir fun m => .oraa (.mem m))
  | 0xB => some (.dir fun m => .adda (.mem m))
  | 0xC => some (.dir fun m => .cpx (.mem m))
  | 0xD => some (.dir .jsr)
  | 0xE => some (.dir fun m => .lds (.mem m))
  | 0xF => some (.dir .sts)
  | _ => none

/-- Row Ax of the first-byte map (R85), by the low digit. -/
def opcodeRowA : Nat → Option Form
  | 0x0 => some (.indX fun m => .suba (.mem m))
  | 0x1 => some (.indX fun m => .cmpa (.mem m))
  | 0x2 => some (.indX fun m => .sbca (.mem m))
  | 0x3 => some (.indX fun m => .subd (.mem m))
  | 0x4 => some (.indX fun m => .anda (.mem m))
  | 0x5 => some (.indX fun m => .bita (.mem m))
  | 0x6 => some (.indX fun m => .ldaa (.mem m))
  | 0x7 => some (.indX .staa)
  | 0x8 => some (.indX fun m => .eora (.mem m))
  | 0x9 => some (.indX fun m => .adca (.mem m))
  | 0xA => some (.indX fun m => .oraa (.mem m))
  | 0xB => some (.indX fun m => .adda (.mem m))
  | 0xC => some (.indX fun m => .cpx (.mem m))
  | 0xD => some (.indX .jsr)
  | 0xE => some (.indX fun m => .lds (.mem m))
  | 0xF => some (.indX .sts)
  | _ => none

/-- Row Bx of the first-byte map (R85), by the low digit. -/
def opcodeRowB : Nat → Option Form
  | 0x0 => some (.ext fun m => .suba (.mem m))
  | 0x1 => some (.ext fun m => .cmpa (.mem m))
  | 0x2 => some (.ext fun m => .sbca (.mem m))
  | 0x3 => some (.ext fun m => .subd (.mem m))
  | 0x4 => some (.ext fun m => .anda (.mem m))
  | 0x5 => some (.ext fun m => .bita (.mem m))
  | 0x6 => some (.ext fun m => .ldaa (.mem m))
  | 0x7 => some (.ext .staa)
  | 0x8 => some (.ext fun m => .eora (.mem m))
  | 0x9 => some (.ext fun m => .adca (.mem m))
  | 0xA => some (.ext fun m => .oraa (.mem m))
  | 0xB => some (.ext fun m => .adda (.mem m))
  | 0xC => some (.ext fun m => .cpx (.mem m))
  | 0xD => some (.ext .jsr)
  | 0xE => some (.ext fun m => .lds (.mem m))
  | 0xF => some (.ext .sts)
  | _ => none

/-- Row Cx of the first-byte map (R85), by the low digit. -/
def opcodeRowC : Nat → Option Form
  | 0x0 => some (.imm8 fun v => .subb (.imm v))
  | 0x1 => some (.imm8 fun v => .cmpb (.imm v))
  | 0x2 => some (.imm8 fun v => .sbcb (.imm v))
  | 0x3 => some (.imm16 fun v => .addd (.imm v))
  | 0x4 => some (.imm8 fun v => .andb (.imm v))
  | 0x5 => some (.imm8 fun v => .bitb (.imm v))
  | 0x6 => some (.imm8 fun v => .ldab (.imm v))
  | 0x8 => some (.imm8 fun v => .eorb (.imm v))
  | 0x9 => some (.imm8 fun v => .adcb (.imm v))
  | 0xA => some (.imm8 fun v => .orab (.imm v))
  | 0xB => some (.imm8 fun v => .addb (.imm v))
  | 0xC => some (.imm16 fun v => .ldd (.imm v))
  | 0xE => some (.imm16 fun v => .ldx (.imm v))
  | 0xF => some (.inh .stop)
  | _ => none

/-- Row Dx of the first-byte map (R85), by the low digit. -/
def opcodeRowD : Nat → Option Form
  | 0x0 => some (.dir fun m => .subb (.mem m))
  | 0x1 => some (.dir fun m => .cmpb (.mem m))
  | 0x2 => some (.dir fun m => .sbcb (.mem m))
  | 0x3 => some (.dir fun m => .addd (.mem m))
  | 0x4 => some (.dir fun m => .andb (.mem m))
  | 0x5 => some (.dir fun m => .bitb (.mem m))
  | 0x6 => some (.dir fun m => .ldab (.mem m))
  | 0x7 => some (.dir .stab)
  | 0x8 => some (.dir fun m => .eorb (.mem m))
  | 0x9 => some (.dir fun m => .adcb (.mem m))
  | 0xA => some (.dir fun m => .orab (.mem m))
  | 0xB => some (.dir fun m => .addb (.mem m))
  | 0xC => some (.dir fun m => .ldd (.mem m))
  | 0xD => some (.dir .std)
  | 0xE => some (.dir fun m => .ldx (.mem m))
  | 0xF => some (.dir .stx)
  | _ => none

/-- Row Ex of the first-byte map (R85), by the low digit. -/
def opcodeRowE : Nat → Option Form
  | 0x0 => some (.indX fun m => .subb (.mem m))
  | 0x1 => some (.indX fun m => .cmpb (.mem m))
  | 0x2 => some (.indX fun m => .sbcb (.mem m))
  | 0x3 => some (.indX fun m => .addd (.mem m))
  | 0x4 => some (.indX fun m => .andb (.mem m))
  | 0x5 => some (.indX fun m => .bitb (.mem m))
  | 0x6 => some (.indX fun m => .ldab (.mem m))
  | 0x7 => some (.indX .stab)
  | 0x8 => some (.indX fun m => .eorb (.mem m))
  | 0x9 => some (.indX fun m => .adcb (.mem m))
  | 0xA => some (.indX fun m => .orab (.mem m))
  | 0xB => some (.indX fun m => .addb (.mem m))
  | 0xC => some (.indX fun m => .ldd (.mem m))
  | 0xD => some (.indX .std)
  | 0xE => some (.indX fun m => .ldx (.mem m))
  | 0xF => some (.indX .stx)
  | _ => none

/-- Row Fx of the first-byte map (R85), by the low digit. -/
def opcodeRowF : Nat → Option Form
  | 0x0 => some (.ext fun m => .subb (.mem m))
  | 0x1 => some (.ext fun m => .cmpb (.mem m))
  | 0x2 => some (.ext fun m => .sbcb (.mem m))
  | 0x3 => some (.ext fun m => .addd (.mem m))
  | 0x4 => some (.ext fun m => .andb (.mem m))
  | 0x5 => some (.ext fun m => .bitb (.mem m))
  | 0x6 => some (.ext fun m => .ldab (.mem m))
  | 0x7 => some (.ext .stab)
  | 0x8 => some (.ext fun m => .eorb (.mem m))
  | 0x9 => some (.ext fun m => .adcb (.mem m))
  | 0xA => some (.ext fun m => .orab (.mem m))
  | 0xB => some (.ext fun m => .addb (.mem m))
  | 0xC => some (.ext fun m => .ldd (.mem m))
  | 0xD => some (.ext .std)
  | 0xE => some (.ext fun m => .ldx (.mem m))
  | 0xF => some (.ext .stx)
  | _ => none

/-- The first-byte map of R85, row by row; none for a prefix byte and for an unassigned byte. -/
def opcodePage1 (b : Byte) : Option Form :=
  match b.toNat / 16 with
  | 0x0 => opcodeRow0 (b.toNat % 16)
  | 0x1 => opcodeRow1 (b.toNat % 16)
  | 0x2 => opcodeRow2 (b.toNat % 16)
  | 0x3 => opcodeRow3 (b.toNat % 16)
  | 0x4 => opcodeRow4 (b.toNat % 16)
  | 0x5 => opcodeRow5 (b.toNat % 16)
  | 0x6 => opcodeRow6 (b.toNat % 16)
  | 0x7 => opcodeRow7 (b.toNat % 16)
  | 0x8 => opcodeRow8 (b.toNat % 16)
  | 0x9 => opcodeRow9 (b.toNat % 16)
  | 0xA => opcodeRowA (b.toNat % 16)
  | 0xB => opcodeRowB (b.toNat % 16)
  | 0xC => opcodeRowC (b.toNat % 16)
  | 0xD => opcodeRowD (b.toNat % 16)
  | 0xE => opcodeRowE (b.toNat % 16)
  | 0xF => opcodeRowF (b.toNat % 16)
  | _ => none

/-- The second bytes after prefix `18` (R86). -/
def opcodePage18 (b : Byte) : Option Form :=
  match b.toNat with
  | 0x08 => some (.inh .iny)
  | 0x09 => some (.inh .dey)
  | 0x1C => some (.indYMask .bset)
  | 0x1D => some (.indYMask .bclr)
  | 0x1E => some (.indYMaskRel .brset)
  | 0x1F => some (.indYMaskRel .brclr)
  | 0x30 => some (.inh .tsy)
  | 0x35 => some (.inh .tys)
  | 0x38 => some (.inh .puly)
  | 0x3A => some (.inh .aby)
  | 0x3C => some (.inh .pshy)
  | 0x60 => some (.indY .neg)
  | 0x63 => some (.indY .com)
  | 0x64 => some (.indY .lsr)
  | 0x66 => some (.indY .ror)
  | 0x67 => some (.indY .asr)
  | 0x68 => some (.indY .asl)
  | 0x69 => some (.indY .rol)
  | 0x6A => some (.indY .dec)
  | 0x6C => some (.indY .inc)
  | 0x6D => some (.indY .tst)
  | 0x6E => some (.indY .jmp)
  | 0x6F => some (.indY .clr)
  | 0x8C => some (.imm16 fun v => .cpy (.imm v))
  | 0x8F => some (.inh .xgdy)
  | 0x9C => some (.dir fun m => .cpy (.mem m))
  | 0xA0 => some (.indY fun m => .suba (.mem m))
  | 0xA1 => some (.indY fun m => .cmpa (.mem m))
  | 0xA2 => some (.indY fun m => .sbca (.mem m))
  | 0xA3 => some (.indY fun m => .subd (.mem m))
  | 0xA4 => some (.indY fun m => .anda (.mem m))
  | 0xA5 => some (.indY fun m => .bita (.mem m))
  | 0xA6 => some (.indY fun m => .ldaa (.mem m))
  | 0xA7 => some (.indY .staa)
  | 0xA8 => some (.indY fun m => .eora (.mem m))
  | 0xA9 => some (.indY fun m => .adca (.mem m))
  | 0xAA => some (.indY fun m => .oraa (.mem m))
  | 0xAB => some (.indY fun m => .adda (.mem m))
  | 0xAC => some (.indY fun m => .cpy (.mem m))
  | 0xAD => some (.indY .jsr)
  | 0xAE => some (.indY fun m => .lds (.mem m))
  | 0xAF => some (.indY .sts)
  | 0xBC => some (.ext fun m => .cpy (.mem m))
  | 0xCE => some (.imm16 fun v => .ldy (.imm v))
  | 0xDE => some (.dir fun m => .ldy (.mem m))
  | 0xDF => some (.dir .sty)
  | 0xE0 => some (.indY fun m => .subb (.mem m))
  | 0xE1 => some (.indY fun m => .cmpb (.mem m))
  | 0xE2 => some (.indY fun m => .sbcb (.mem m))
  | 0xE3 => some (.indY fun m => .addd (.mem m))
  | 0xE4 => some (.indY fun m => .andb (.mem m))
  | 0xE5 => some (.indY fun m => .bitb (.mem m))
  | 0xE6 => some (.indY fun m => .ldab (.mem m))
  | 0xE7 => some (.indY .stab)
  | 0xE8 => some (.indY fun m => .eorb (.mem m))
  | 0xE9 => some (.indY fun m => .adcb (.mem m))
  | 0xEA => some (.indY fun m => .orab (.mem m))
  | 0xEB => some (.indY fun m => .addb (.mem m))
  | 0xEC => some (.indY fun m => .ldd (.mem m))
  | 0xED => some (.indY .std)
  | 0xEE => some (.indY fun m => .ldy (.mem m))
  | 0xEF => some (.indY .sty)
  | 0xFE => some (.ext fun m => .ldy (.mem m))
  | 0xFF => some (.ext .sty)
  | _ => none

/-- The second bytes after prefix `1A` (R87). -/
def opcodePage1A (b : Byte) : Option Form :=
  match b.toNat with
  | 0x83 => some (.imm16 fun v => .cpd (.imm v))
  | 0x93 => some (.dir fun m => .cpd (.mem m))
  | 0xA3 => some (.indX fun m => .cpd (.mem m))
  | 0xAC => some (.indX fun m => .cpy (.mem m))
  | 0xB3 => some (.ext fun m => .cpd (.mem m))
  | 0xEE => some (.indX fun m => .ldy (.mem m))
  | 0xEF => some (.indX .sty)
  | _ => none

/-- The second bytes after prefix `CD` (R88). -/
def opcodePageCD (b : Byte) : Option Form :=
  match b.toNat with
  | 0xA3 => some (.indY fun m => .cpd (.mem m))
  | 0xAC => some (.indY fun m => .cpx (.mem m))
  | 0xEE => some (.indY fun m => .ldx (.mem m))
  | 0xEF => some (.indY .stx)
  | _ => none

/-- The three prefix bytes (R81). -/
def isPrefixByte (b : Byte) : Bool := b == 0x18 || b == 0x1A || b == 0xCD

/-- The map that a prefix byte selects (R81, R94). -/
def opcodeAfter (b0 b1 : Byte) : Option Form :=
  if b0 = 0x18 then opcodePage18 b1
  else if b0 = 0x1A then opcodePage1A b1
  else opcodePageCD b1

/-- `Decode` of R94 on the bytes at the program counter. Total on any bytes: an unassigned code is
rejected by name. `00` is always TEST here; the parameter TEST_MODE is looked at by the meaning of TEST
(R394, log 13). -/
def decode : List Byte → Except DecodeError Decoded
  | [] => .error .truncated
  | b0 :: rest =>
    if isPrefixByte b0 then
      match rest with
      | [] => .error .truncated
      | b1 :: rest' =>
        match opcodeAfter b0 b1 with
        | some f => f.read 2 rest'
        | none => .error (.unassignedAfter b0 b1)
    else
      match opcodePage1 b0 with
      | some f => f.read 1 rest
      | none => .error (.unassigned b0)

/-! ### The encoder -/

/-- The bytes of a memory form, given the opcode bytes of each of its modes. A form that the mnemonic
lacks has no opcode bytes; no well-formed instruction has it. -/
def encodeMem (dir ext indX indY : List Byte) : Mem → List Byte
  | .dir dd => dir ++ [dd]
  | .ext a => ext ++ [highByte a, lowByte a]
  | .indX ff => indX ++ [ff]
  | .indY ff => indY ++ [ff]

/-- The bytes of an 8-bit source form. -/
def encodeSrc8 (imm dir ext indX indY : List Byte) : Src8 → List Byte
  | .imm ii => imm ++ [ii]
  | .mem m => encodeMem dir ext indX indY m

/-- The bytes of a 16-bit source form. -/
def encodeSrc16 (imm dir ext indX indY : List Byte) : Src16 → List Byte
  | .imm v => imm ++ [highByte v, lowByte v]
  | .mem m => encodeMem dir ext indX indY m

/-- The bytes of an instruction, from the encoding table of its rule. -/
def encode : Instr → List Byte
  | .aba => [0x1B]
  | .abx => [0x3A]
  | .aby => [0x18, 0x3A]
  | .adca o => encodeSrc8 [0x89] [0x99] [0xB9] [0xA9] [0x18, 0xA9] o
  | .adcb o => encodeSrc8 [0xC9] [0xD9] [0xF9] [0xE9] [0x18, 0xE9] o
  | .adda o => encodeSrc8 [0x8B] [0x9B] [0xBB] [0xAB] [0x18, 0xAB] o
  | .addb o => encodeSrc8 [0xCB] [0xDB] [0xFB] [0xEB] [0x18, 0xEB] o
  | .addd o => encodeSrc16 [0xC3] [0xD3] [0xF3] [0xE3] [0x18, 0xE3] o
  | .anda o => encodeSrc8 [0x84] [0x94] [0xB4] [0xA4] [0x18, 0xA4] o
  | .andb o => encodeSrc8 [0xC4] [0xD4] [0xF4] [0xE4] [0x18, 0xE4] o
  | .asl m => encodeMem [] [0x78] [0x68] [0x18, 0x68] m
  | .asla => [0x48]
  | .aslb => [0x58]
  | .asld => [0x05]
  | .asr m => encodeMem [] [0x77] [0x67] [0x18, 0x67] m
  | .asra => [0x47]
  | .asrb => [0x57]
  | .bcc rr => [0x24] ++ [rr]
  | .bclr m mm => encodeMem [0x15] [] [0x1D] [0x18, 0x1D] m ++ [mm]
  | .bcs rr => [0x25] ++ [rr]
  | .beq rr => [0x27] ++ [rr]
  | .bge rr => [0x2C] ++ [rr]
  | .bgt rr => [0x2E] ++ [rr]
  | .bhi rr => [0x22] ++ [rr]
  | .bhs rr => [0x24] ++ [rr]
  | .bita o => encodeSrc8 [0x85] [0x95] [0xB5] [0xA5] [0x18, 0xA5] o
  | .bitb o => encodeSrc8 [0xC5] [0xD5] [0xF5] [0xE5] [0x18, 0xE5] o
  | .ble rr => [0x2F] ++ [rr]
  | .blo rr => [0x25] ++ [rr]
  | .bls rr => [0x23] ++ [rr]
  | .blt rr => [0x2D] ++ [rr]
  | .bmi rr => [0x2B] ++ [rr]
  | .bne rr => [0x26] ++ [rr]
  | .bpl rr => [0x2A] ++ [rr]
  | .bra rr => [0x20] ++ [rr]
  | .brclr m mm rr => encodeMem [0x13] [] [0x1F] [0x18, 0x1F] m ++ [mm, rr]
  | .brn rr => [0x21] ++ [rr]
  | .brset m mm rr => encodeMem [0x12] [] [0x1E] [0x18, 0x1E] m ++ [mm, rr]
  | .bset m mm => encodeMem [0x14] [] [0x1C] [0x18, 0x1C] m ++ [mm]
  | .bsr rr => [0x8D] ++ [rr]
  | .bvc rr => [0x28] ++ [rr]
  | .bvs rr => [0x29] ++ [rr]
  | .cba => [0x11]
  | .clc => [0x0C]
  | .cli => [0x0E]
  | .clr m => encodeMem [] [0x7F] [0x6F] [0x18, 0x6F] m
  | .clra => [0x4F]
  | .clrb => [0x5F]
  | .clv => [0x0A]
  | .cmpa o => encodeSrc8 [0x81] [0x91] [0xB1] [0xA1] [0x18, 0xA1] o
  | .cmpb o => encodeSrc8 [0xC1] [0xD1] [0xF1] [0xE1] [0x18, 0xE1] o
  | .com m => encodeMem [] [0x73] [0x63] [0x18, 0x63] m
  | .coma => [0x43]
  | .comb => [0x53]
  | .cpd o => encodeSrc16 [0x1A, 0x83] [0x1A, 0x93] [0x1A, 0xB3] [0x1A, 0xA3] [0xCD, 0xA3] o
  | .cpx o => encodeSrc16 [0x8C] [0x9C] [0xBC] [0xAC] [0xCD, 0xAC] o
  | .cpy o => encodeSrc16 [0x18, 0x8C] [0x18, 0x9C] [0x18, 0xBC] [0x1A, 0xAC] [0x18, 0xAC] o
  | .daa => [0x19]
  | .dec m => encodeMem [] [0x7A] [0x6A] [0x18, 0x6A] m
  | .deca => [0x4A]
  | .decb => [0x5A]
  | .des => [0x34]
  | .dex => [0x09]
  | .dey => [0x18, 0x09]
  | .eora o => encodeSrc8 [0x88] [0x98] [0xB8] [0xA8] [0x18, 0xA8] o
  | .eorb o => encodeSrc8 [0xC8] [0xD8] [0xF8] [0xE8] [0x18, 0xE8] o
  | .fdiv => [0x03]
  | .idiv => [0x02]
  | .inc m => encodeMem [] [0x7C] [0x6C] [0x18, 0x6C] m
  | .inca => [0x4C]
  | .incb => [0x5C]
  | .ins => [0x31]
  | .inx => [0x08]
  | .iny => [0x18, 0x08]
  | .jmp m => encodeMem [] [0x7E] [0x6E] [0x18, 0x6E] m
  | .jsr m => encodeMem [0x9D] [0xBD] [0xAD] [0x18, 0xAD] m
  | .ldaa o => encodeSrc8 [0x86] [0x96] [0xB6] [0xA6] [0x18, 0xA6] o
  | .ldab o => encodeSrc8 [0xC6] [0xD6] [0xF6] [0xE6] [0x18, 0xE6] o
  | .ldd o => encodeSrc16 [0xCC] [0xDC] [0xFC] [0xEC] [0x18, 0xEC] o
  | .lds o => encodeSrc16 [0x8E] [0x9E] [0xBE] [0xAE] [0x18, 0xAE] o
  | .ldx o => encodeSrc16 [0xCE] [0xDE] [0xFE] [0xEE] [0xCD, 0xEE] o
  | .ldy o => encodeSrc16 [0x18, 0xCE] [0x18, 0xDE] [0x18, 0xFE] [0x1A, 0xEE] [0x18, 0xEE] o
  | .lsl m => encodeMem [] [0x78] [0x68] [0x18, 0x68] m
  | .lsla => [0x48]
  | .lslb => [0x58]
  | .lsld => [0x05]
  | .lsr m => encodeMem [] [0x74] [0x64] [0x18, 0x64] m
  | .lsra => [0x44]
  | .lsrb => [0x54]
  | .lsrd => [0x04]
  | .mul => [0x3D]
  | .neg m => encodeMem [] [0x70] [0x60] [0x18, 0x60] m
  | .nega => [0x40]
  | .negb => [0x50]
  | .nop => [0x01]
  | .oraa o => encodeSrc8 [0x8A] [0x9A] [0xBA] [0xAA] [0x18, 0xAA] o
  | .orab o => encodeSrc8 [0xCA] [0xDA] [0xFA] [0xEA] [0x18, 0xEA] o
  | .psha => [0x36]
  | .pshb => [0x37]
  | .pshx => [0x3C]
  | .pshy => [0x18, 0x3C]
  | .pula => [0x32]
  | .pulb => [0x33]
  | .pulx => [0x38]
  | .puly => [0x18, 0x38]
  | .rol m => encodeMem [] [0x79] [0x69] [0x18, 0x69] m
  | .rola => [0x49]
  | .rolb => [0x59]
  | .ror m => encodeMem [] [0x76] [0x66] [0x18, 0x66] m
  | .rora => [0x46]
  | .rorb => [0x56]
  | .rti => [0x3B]
  | .rts => [0x39]
  | .sba => [0x10]
  | .sbca o => encodeSrc8 [0x82] [0x92] [0xB2] [0xA2] [0x18, 0xA2] o
  | .sbcb o => encodeSrc8 [0xC2] [0xD2] [0xF2] [0xE2] [0x18, 0xE2] o
  | .sec => [0x0D]
  | .sei => [0x0F]
  | .sev => [0x0B]
  | .staa m => encodeMem [0x97] [0xB7] [0xA7] [0x18, 0xA7] m
  | .stab m => encodeMem [0xD7] [0xF7] [0xE7] [0x18, 0xE7] m
  | .std m => encodeMem [0xDD] [0xFD] [0xED] [0x18, 0xED] m
  | .stop => [0xCF]
  | .sts m => encodeMem [0x9F] [0xBF] [0xAF] [0x18, 0xAF] m
  | .stx m => encodeMem [0xDF] [0xFF] [0xEF] [0xCD, 0xEF] m
  | .sty m => encodeMem [0x18, 0xDF] [0x18, 0xFF] [0x1A, 0xEF] [0x18, 0xEF] m
  | .suba o => encodeSrc8 [0x80] [0x90] [0xB0] [0xA0] [0x18, 0xA0] o
  | .subb o => encodeSrc8 [0xC0] [0xD0] [0xF0] [0xE0] [0x18, 0xE0] o
  | .subd o => encodeSrc16 [0x83] [0x93] [0xB3] [0xA3] [0x18, 0xA3] o
  | .swi => [0x3F]
  | .tab => [0x16]
  | .tap => [0x06]
  | .tba => [0x17]
  | .test => [0x00]
  | .tpa => [0x07]
  | .tst m => encodeMem [] [0x7D] [0x6D] [0x18, 0x6D] m
  | .tsta => [0x4D]
  | .tstb => [0x5D]
  | .tsx => [0x30]
  | .tsy => [0x18, 0x30]
  | .txs => [0x35]
  | .tys => [0x18, 0x35]
  | .wai => [0x3E]
  | .xgdx => [0x8F]
  | .xgdy => [0x18, 0x8F]

/-! ### The host's numbering of a table row -/

/-- Byte `k` of a number, byte 0 its least significant. -/
def byteAt (w k : Nat) : Byte := BitVec.ofNat 8 (w / 2 ^ (8 * k))

/-- The five bytes, in memory order, of an instruction whose bits are `w`, as spec/opcode_table.json
numbers them, every bit from `nbits` on being 0. The table reads the two fixed bytes of a prefixed row as
one big-endian number (R93: ABY, `18 3A`, is 0x183A), so there the prefix, the first byte, is bits 15 to
8; otherwise byte k is bits 8k + 7 to 8k. (log 17) -/
def tableBytes (nbits w : Nat) : List Byte :=
  let v := w % 2 ^ nbits
  if isPrefixByte (byteAt v 1) then [byteAt v 1, byteAt v 0, byteAt v 2, byteAt v 3, byteAt v 4]
  else [byteAt v 0, byteAt v 1, byteAt v 2, byteAt v 3, byteAt v 4]

/-- The instruction that the decoder reads from a word of spec/opcode_table.json. -/
def decodeTableWord (nbits w : Nat) : Option Instr :=
  match decode (tableBytes nbits w) with
  | .ok d => some d.instr
  | .error _ => none

end Sys2Proof
end

