-- ==== Sys2Proof/Config.lean ====
section
/-! DEFINITION. The parameters of R7 as plain data, with the spec's defaults, and the free values:
constants with no body, which nothing in Lean can evaluate. -/

namespace Sys2Proof

/-- `ILLEGAL_STACKED_PC` (R7, R507): which address the illegal-opcode trap stacks. -/
inductive StackedPc where
  | opcodeAddress
  | nextAddress
deriving DecidableEq, Repr

/-- What stands behind an address (R7, R55, R62, R67). -/
inductive CellKind where
  /-- plain read-write storage -/
  | storage
  /-- storage that a write does not change -/
  | readOnly
  /-- nothing: a read is a draw, a write is dropped -/
  | absent
  /-- a device: the platform's functions decide what a read returns and what an access changes (R62) -/
  | device
deriving DecidableEq, Repr

/-- The addresses `first` to `last`, both included, and what stands behind them. -/
structure Region where
  first : Word
  last : Word
  kind : CellKind
deriving DecidableEq, Repr

/-- The parameters a model takes as arguments (R7). State carries one such record, so that a
statement over all states holds for every value of them (log 4). -/
structure Config where
  /-- `TEST_MODE` (R90, R394) -/
  testMode : Bool
  /-- `ILLEGAL_STACKED_PC` (R507) -/
  illegalStackedPc : StackedPc
  /-- `VEC_RESET` (R503, R550) -/
  vecReset : Word
  /-- `VEC_ILLOP` (R503, R507) -/
  vecIllop : Word
  /-- `VEC_SWI` (R503, R508) -/
  vecSwi : Word
  /-- `VEC_XIRQ` (R503, R519) -/
  vecXirq : Word
  /-- `VEC_IRQ` (R503, R519) -/
  vecIrq : Word
  /-- `I_CLEAR_DELAY` (R39, R514) -/
  iClearDelay : Bool
  /-- `Platform` (R55, R67): the first region that holds an address decides; every address in no
  region is plain storage. -/
  platform : List Region
deriving DecidableEq, Repr

/-- The defaults of R7. -/
def Config.standard : Config where
  testMode := false
  illegalStackedPc := .opcodeAddress
  vecReset := 0xFFFE
  vecIllop := 0xFFF8
  vecSwi := 0xFFF6
  vecXirq := 0xFFF4
  vecIrq := 0xFFF2
  iClearDelay := true
  platform := []

/-- Some region of the platform is a device's (R7). -/
def Config.hasDevices (c : Config) : Bool := c.platform.any fun r => r.kind == .device

/-- The five vector addresses of R503. -/
def Config.vectors (c : Config) : List Word :=
  [c.vecReset, c.vecIllop, c.vecSwi, c.vecXirq, c.vecIrq]

/-- What R503 asks of the vector addresses: distinct and even (an even address has its second byte
inside the address space). -/
def Config.vectorsOk (c : Config) : Bool :=
  decide c.vectors.Nodup && c.vectors.all fun v => v.toNat % 2 == 0

/-- The registers and flags that reset leaves unspecified (`RESET_REGS`, R7, R551). -/
structure ResetRegs where
  a : Byte
  b : Byte
  ix : Word
  iy : Word
  sp : Word
  h : Bool
  n : Bool
  z : Bool
  v : Bool
  c : Bool
deriving DecidableEq, Repr, Inhabited

/-- What DAA leaves open outside the table of R276: any value for A, N, Z and C (U5). -/
structure DaaDraw where
  a : Byte
  n : Bool
  z : Bool
  c : Bool
deriving DecidableEq, Repr, Inhabited

/-- `UNDEF_V_DAA` (R7, R276, U4): V after DAA, a free value read at the draw counter. -/
opaque Config.undefVDaa : Nat → Bool

/-- DAA on an input that no BCD addition produces (R276, U5), a free value. -/
opaque Config.daaOutside : Nat → DaaDraw

/-- `UNDEF_D_DIV` (R7, R295, R296, U6, U7): D after a divide by zero or an overflow, a free value. -/
opaque Config.undefDDiv : Nat → Word

/-- `RESET_REGS` (R7, R551, U8): what a reset request leaves in the unspecified registers, free. -/
opaque Config.resetRegs : Nat → ResetRegs

/-- A data read of an absent cell (R67, U10): a free value for each draw and address. -/
opaque Config.absentByte : Nat → Word → Byte

/-- An instruction-byte read of an absent cell (R67, U10): a free value for each draw and address. -/
opaque Config.absentCode : Nat → Word → Byte

/-! ### The devices of the platform: uninterpreted functions of their state (R7, R62, log 10) -/

/-- What the devices do at once, as the platform's functions decide it: the state that they are in
afterwards, and the bytes of memory that they write (R59, R62). -/
structure DeviceAct where
  state : Nat
  stores : List (Word × Byte)
deriving DecidableEq, Repr, Inhabited

/-- What a read of a device cell answers: the value returned and the side effect of the read (R62). -/
structure DeviceAnswer where
  value : Byte
  act : DeviceAct
deriving DecidableEq, Repr, Inhabited

/-- The read function of the devices, of their state and an address of theirs (R7, R62). -/
opaque Config.deviceRead : Nat → Word → DeviceAnswer

/-- The write function of the devices, of their state, an address of theirs and the byte (R7, R62). -/
opaque Config.deviceWrite : Nat → Word → Byte → DeviceAct

/-- What the devices do between two instructions, of their state (R59, decision D9 of the spec). -/
opaque Config.deviceTick : Nat → DeviceAct

/-! ### The oracle of requests -/

/-- The classes of asynchronous request (R511). -/
inductive RequestClass where
  | reset
  | xirq
  | maskable
deriving DecidableEq, Repr

/-- A pending request of the oracle `IntRequest`: its class and its vector address (R7, R511). -/
structure Request where
  cls : RequestClass
  vector : Word
deriving DecidableEq, Repr

/-- What the oracle answers when its listed answers are used up. -/
inductive OracleRest where
  /-- the same answer at every further boundary; no request, if the list is empty -/
  | always (reqs : List Request)
  /-- whatever the platform answers: `Config.intRequest` -/
  | platform
deriving DecidableEq, Repr

/-- The oracle `IntRequest` (R7, R510): its answers at the coming boundaries, the next one first, and what
it answers at all the boundaries after them (log 5). -/
structure Oracle where
  coming : List (List Request)
  rest : OracleRest
deriving DecidableEq, Repr

/-- The default oracle of R7: no request ever. -/
def Oracle.never : Oracle where
  coming := []
  rest := .always []

/-- The oracle once it has been asked. -/
def Oracle.next (o : Oracle) : Oracle := { o with coming := o.coming.tail }

/-- The oracle with no request at the next boundary, and every later answer as it was. -/
def Oracle.quietNext (o : Oracle) : Oracle :=
  match o.coming, o.rest with
  | [], .always [] => o
  | [], .always (_ :: _) => { o with coming := [[]] }
  | [], .platform => { o with coming := [[]] }
  | _ :: later, _ => { o with coming := [] :: later }

/-- The platform's own answer at a boundary (R7, R511, R517): an uninterpreted function of the state of the
devices and of the count of boundaries, so that a request can last without end, come at any time, or
end when a handler writes to the device that makes it (log 5). -/
opaque Config.intRequest : Nat → Nat → List Request

end Sys2Proof
end

