-- ==== Sys2Proof/Machine/State.lean ====
section
/-! DEFINITION. The whole state of the machine as plain data (R20), with the parameters of R7 and the
oracle's coming answers, and the state right after reset. -/

namespace Sys2Proof.Machine

/-- The condition code register (R27): its eight bits, each a state bit of its own; no bit reads as a
constant. `CCR.toByte` and `CCR.ofByte` give the byte that TPA, TAP, RTI and stacking move. -/
structure CCR where
  /-- bit 7, stop disable (R28) -/
  s : Bool
  /-- bit 6, the mask of the xirq class (R29) -/
  x : Bool
  /-- bit 5, half carry (R30) -/
  h : Bool
  /-- bit 4, the interrupt mask (R31) -/
  i : Bool
  /-- bit 3, negative (R32) -/
  n : Bool
  /-- bit 2, zero (R33) -/
  z : Bool
  /-- bit 1, two's-complement overflow (R34) -/
  v : Bool
  /-- bit 0, carry and borrow (R35) -/
  c : Bool
deriving DecidableEq, Repr

/-- Whether the CPU is executing (R38). -/
inductive RunState where
  /-- instructions are fetched and executed -/
  | running
  /-- a WAI has stacked the registers and waits for an interrupt (R413, R518) -/
  | waiting
  /-- a STOP with S = 0 has stopped the clocks (R383, R519) -/
  | stopped
  /-- a TEST in a test mode; only reset leaves it (R394, R520) -/
  | testLock
deriving DecidableEq, Repr

/-- Memory as (address, byte) pairs, addresses strictly rising, no byte equal to `blank`. -/
abbrev Memory := List Host.Cell

/-- What a storage cell that nothing has written reads as (DESIGN CHOICE, log 1: R20 and U9 leave it
unspecified and forbid assuming zero). -/
def blank : Byte := 0xFF

/-- The architectural state of R20, the platform's devices, the parameters of R7, the oracle and the draw
counter. -/
structure State where
  /-- accumulator A (R21) -/
  a : Byte
  /-- accumulator B (R21) -/
  b : Byte
  /-- index register X (R23) -/
  ix : Word
  /-- index register Y (R24) -/
  iy : Word
  /-- stack pointer: the address of the next free byte (R25) -/
  sp : Word
  /-- program counter (R26) -/
  pc : Word
  /-- condition code register (R27) -/
  ccr : CCR
  /-- whether the CPU is executing (R38) -/
  run : RunState
  /-- the one-instruction hold-off of maskable requests (R39) -/
  iDelay : Bool
  /-- the storage cells (R50, R62) -/
  mem : Memory
  /-- the state of the devices of `Platform` (R7, R62), a number that only the platform's functions
  interpret (log 10) -/
  devices : Nat
  /-- the parameters of R7; no step changes them -/
  config : Config
  /-- `IntRequest` (R7, R510, log 5) -/
  oracle : Oracle
  /-- the MODEL's own: where the free values are read (log 6) -/
  draws : Nat
deriving DecidableEq, Repr

/-- The machine has no fault: no access and no instruction can fail (R62, R120, R521). -/
inductive Fault where
deriving DecidableEq, Repr

/-- Why a step is refused. -/
inductive Refusal where
  /-- Raised by an arm of `exec` whose instruction has no meaning yet; safe: the run stops. No arm of
  this model raises it. -/
  | notModelled (mnemonic : String)
deriving DecidableEq, Repr

/-- What a step answers. -/
abbrev Result := Host.Outcome State Fault Refusal

/-- The CCR after reset (R40, R551): S, X and I are 1; H, N, Z, V and C, which the spec leaves
unspecified, are 0 (DESIGN CHOICE, log 2). -/
def CCR.reset : CCR where
  s := true
  x := true
  h := false
  i := true
  n := false
  z := false
  v := false
  c := false

/-- The machine right after reset (R40, R551): PC is the content of the reset vector, which with nothing
written is `blank : blank` (log 3); A, B, IX, IY and SP, which the spec leaves unspecified, are 0 (DESIGN
CHOICE, log 2); the parameters are the defaults of R7, with which no device stands
behind an address (log 10), and the oracle never has a request. -/
def State.reset : State where
  a := 0
  b := 0
  ix := 0
  iy := 0
  sp := 0
  pc := blank ++ blank
  ccr := CCR.reset
  run := .running
  iDelay := false
  mem := []
  devices := 0
  config := Config.standard
  oracle := Oracle.never
  draws := 0

end Sys2Proof.Machine
end

