-- ==== Sys2Proof/Machine/Flags.lean ====
section
/-! DEFINITION. The flag functions (R134 to R140) and the branch conditions (R141). A function that
computes a result and writes flags takes the old CCR and answers the result with the new CCR. -/

namespace Sys2Proof.Machine

/-- The CCR as a byte (R27): S is bit 7, X 6, H 5, I 4, N 3, Z 2, V 1, C 0. -/
def CCR.toByte (f : CCR) : Byte :=
  BitVec.ofBool f.s ++ BitVec.ofBool f.x ++ BitVec.ofBool f.h ++ BitVec.ofBool f.i ++
    BitVec.ofBool f.n ++ BitVec.ofBool f.z ++ BitVec.ofBool f.v ++ BitVec.ofBool f.c

/-- Writing a byte to the CCR, by TAP and RTI only (R140): seven bits take the new value, X takes it only
if that clears X. -/
def CCR.write (f : CCR) (v : Byte) : CCR where
  s := v.getLsbD 7
  x := f.x && v.getLsbD 6
  h := v.getLsbD 5
  i := v.getLsbD 4
  n := v.getLsbD 3
  z := v.getLsbD 2
  v := v.getLsbD 1
  c := v.getLsbD 0

/-- `NZ8`, `NZ16` (R134): N is the top bit of the result, Z tells that it is zero. -/
def CCR.nz {w : Nat} (f : CCR) (r : BitVec w) : CCR :=
  { f with n := r.msb, z := r == 0#w }

/-- N and Z from the result, V cleared, C kept: loads, stores, AND, OR, EOR, BIT, BSET, BCLR, TAB, TBA
(R208, R305, R380). -/
def CCR.logic {w : Nat} (f : CCR) (r : BitVec w) : CCR :=
  { f.nz r with v := false }

/-- `Add8(a, m, cin)` (R135). -/
def add8 (a m : Byte) (cin : Bool) (f : CCR) : Byte × CCR :=
  let r := BitVec.ofNat 8 (a.toNat + m.toNat + cin.toNat)
  (r, { f.nz r with
    h := decide (a.toNat % 16 + m.toNat % 16 + cin.toNat > 15)
    v := (a.msb == m.msb) && (r.msb != a.msb)
    c := decide (a.toNat + m.toNat + cin.toNat > 255) })

/-- `Sub8(a, m, bin)` (R136): C is a borrow; H is not written. -/
def sub8 (a m : Byte) (bin : Bool) (f : CCR) : Byte × CCR :=
  let r := BitVec.ofInt 8 ((a.toNat : Int) - m.toNat - bin.toNat)
  (r, { f.nz r with
    v := (a.msb != m.msb) && (r.msb != a.msb)
    c := decide (m.toNat + bin.toNat > a.toNat) })

/-- `Add16(a, m)` (R137): no carry in, H is not written. -/
def add16 (a m : Word) (f : CCR) : Word × CCR :=
  let r := BitVec.ofNat 16 (a.toNat + m.toNat)
  (r, { f.nz r with
    v := (a.msb == m.msb) && (r.msb != a.msb)
    c := decide (a.toNat + m.toNat > 65535) })

/-- `Sub16(a, m)` (R138). -/
def sub16 (a m : Word) (f : CCR) : Word × CCR :=
  let r := BitVec.ofInt 16 ((a.toNat : Int) - m.toNat)
  (r, { f.nz r with
    v := (a.msb != m.msb) && (r.msb != a.msb)
    c := decide (m.toNat > a.toNat) })

/-- What every shift and rotate writes (R139): N and Z from the result, C the bit shifted out, V the
exclusive or of the new N and the new C. -/
def CCR.shifted {w : Nat} (f : CCR) (r : BitVec w) (carry : Bool) : CCR :=
  { f.nz r with c := carry, v := r.msb ^^ carry }

/-- `Asl_w` (R139): bit 0 becomes 0, the top bit goes to C. -/
def asl {w : Nat} (x : BitVec w) (f : CCR) : BitVec w × CCR :=
  let r := x <<< 1
  (r, f.shifted r x.msb)

/-- `Asr_8` (R139): bit 7 keeps its value, bit 0 goes to C. -/
def asr8 (x : Byte) (f : CCR) : Byte × CCR :=
  let r := x.sshiftRight 1
  (r, f.shifted r (x.getLsbD 0))

/-- `Lsr_w` (R139): the top bit becomes 0, bit 0 goes to C. -/
def lsr {w : Nat} (x : BitVec w) (f : CCR) : BitVec w × CCR :=
  let r := x >>> 1
  (r, f.shifted r (x.getLsbD 0))

/-- `Rol_8` (R139): `x[6:0] : C`, bit 7 goes to C. -/
def rol8 (x : Byte) (f : CCR) : Byte × CCR :=
  let r : Byte := x.extractLsb' 0 7 ++ BitVec.ofBool f.c
  (r, f.shifted r x.msb)

/-- `Ror_8` (R139): `C : x[7:1]`, bit 0 goes to C. -/
def ror8 (x : Byte) (f : CCR) : Byte × CCR :=
  let r : Byte := BitVec.ofBool f.c ++ x.extractLsb' 1 7
  (r, f.shifted r (x.getLsbD 0))

/-- INC (R297): V is set exactly when `$7F` becomes `$80`; C is kept. -/
def inc8 (x : Byte) (f : CCR) : Byte × CCR :=
  let r := x + 1
  (r, { f.nz r with v := x == 0x7F })

/-- DEC (R277): V is set exactly when `$80` becomes `$7F`; C is kept. -/
def dec8 (x : Byte) (f : CCR) : Byte × CCR :=
  let r := x - 1
  (r, { f.nz r with v := x == 0x80 })

/-- NEG (R332): V is set for the result `$80`, C for every result but `$00`. -/
def neg8 (x : Byte) (f : CCR) : Byte × CCR :=
  let r := 0 - x
  (r, { f.nz r with v := r == 0x80, c := r != 0x00 })

/-- COM (R270): V is cleared, C set. -/
def com8 (x : Byte) (f : CCR) : Byte × CCR :=
  let r := ~~~x
  (r, { f.nz r with v := false, c := true })

/-- The constant flags of CLR (R264): N Z V C = 0 1 0 0. -/
def CCR.clear (f : CCR) : CCR :=
  { f with n := false, z := true, v := false, c := false }

/-- The flags of TST (R396): N and Z from the byte, V and C cleared. -/
def CCR.test (f : CCR) (x : Byte) : CCR :=
  { f.nz x with v := false, c := false }

/-! ### Decimal adjust -/

/-- The inputs of DAA that the nine rows of the table of R276 list: C, the high digit, H, the low digit
before the instruction. -/
def daaListed (a : Byte) (f : CCR) : Bool :=
  let hi := a.toNat / 16
  let lo := a.toNat % 16
  (!f.c && decide (hi ≤ 9) && !f.h && decide (lo ≤ 9)) ||
  (!f.c && decide (hi ≤ 8) && !f.h && decide (10 ≤ lo)) ||
  (!f.c && decide (hi ≤ 9) && f.h && decide (lo ≤ 3)) ||
  (!f.c && decide (10 ≤ hi) && !f.h && decide (lo ≤ 9)) ||
  (!f.c && decide (9 ≤ hi) && !f.h && decide (10 ≤ lo)) ||
  (!f.c && decide (10 ≤ hi) && f.h && decide (lo ≤ 3)) ||
  (f.c && decide (hi ≤ 2) && !f.h && decide (lo ≤ 9)) ||
  (f.c && decide (hi ≤ 2) && !f.h && decide (10 ≤ lo)) ||
  (f.c && decide (hi ≤ 3) && f.h && decide (lo ≤ 3))

/-- The low digit is corrected by `$06` (R276). -/
def daaLow (a : Byte) (f : CCR) : Bool := decide (a.toNat % 16 > 9) || f.h

/-- The high digit is corrected by `$60` (R276). -/
def daaHigh (a : Byte) (f : CCR) : Bool :=
  decide (a.toNat / 16 > 9) || f.c || (a.toNat / 16 == 9 && decide (a.toNat % 16 > 9))

/-- The correction `cf` of R276. -/
def daaCorrection (a : Byte) (f : CCR) : Byte :=
  (if daaLow a f then 0x06 else 0x00) ||| (if daaHigh a f then 0x60 else 0x00)

/-- DAA on a listed input (R276): the corrected A with its N and Z, C as the correction leaves it, V a
free value. -/
def daaAdjust (a : Byte) (v : Bool) (f : CCR) : Byte × CCR :=
  let r := BitVec.ofNat 8 (a.toNat + (daaCorrection a f).toNat)
  (r, { f.nz r with c := f.c || daaHigh a f, v := v })

/-! ### Branch conditions (R141) -/

/-- BHI: `(C | Z) == 0` -/
def CCR.higher (f : CCR) : Bool := !(f.c || f.z)

/-- BLS: `(C | Z) == 1` -/
def CCR.lowerOrSame (f : CCR) : Bool := f.c || f.z

/-- BGE: `(N ^ V) == 0` -/
def CCR.greaterOrEqual (f : CCR) : Bool := !(f.n ^^ f.v)

/-- BLT: `(N ^ V) == 1` -/
def CCR.less (f : CCR) : Bool := f.n ^^ f.v

/-- BGT: `(Z | (N ^ V)) == 0` -/
def CCR.greater (f : CCR) : Bool := !(f.z || (f.n ^^ f.v))

/-- BLE: `(Z | (N ^ V)) == 1` -/
def CCR.lessOrEqual (f : CCR) : Bool := f.z || (f.n ^^ f.v)

end Sys2Proof.Machine
end

