-- ==== Sys2Proof/Machine/Ops.lean ====
section
/-! DEFINITION. The named operations on registers and memory: the platform, the memory primitives (R62,
R63), the stack primitives (R130 to R133), the fetch of an instruction's bytes, taking an exception
(R505, R506), the illegal-opcode trap (R507), the return (R364), and reset (R550). -/

namespace Sys2Proof.Machine

/-! ### Memory -/

/-- The byte at an address; an address not listed reads `blank`. -/
def Memory.read : Memory → Nat → Byte
  | [], _ => blank
  | (k, v) :: m, a => if k = a then v else Memory.read m a

/-- The memory without any entry for an address. -/
def Memory.erase : Memory → Nat → Memory
  | [], _ => []
  | (k, v) :: m, a => if k = a then Memory.erase m a else (k, v) :: Memory.erase m a

/-- The memory with an entry added before the first entry of a higher address. -/
def Memory.insert (a : Nat) (v : Byte) : Memory → Memory
  | [] => [(a, v)]
  | (k, w) :: m => if a < k then (a, v) :: (k, w) :: m else (k, w) :: Memory.insert a v m

/-- The memory after a byte is written; writing `blank` leaves no entry. -/
def Memory.write (m : Memory) (a : Nat) (v : Byte) : Memory :=
  if v = blank then Memory.erase m a else Memory.insert a v (Memory.erase m a)

/-- The entries rise strictly from `lo`, lie in the address space and are not blank. -/
def Memory.wfFrom : Nat → Memory → Bool
  | _, [] => true
  | lo, (k, v) :: m => decide (lo ≤ k) && decide (k < 65536) && v != blank && Memory.wfFrom (k + 1) m

/-- The canonical form of a memory: equal memories are equal lists. -/
def Memory.wf (m : Memory) : Bool := Memory.wfFrom 0 m

/-- The address lies in the region. -/
def Region.holds (r : Region) (a : Word) : Bool :=
  decide (r.first.toNat ≤ a.toNat) && decide (a.toNat ≤ r.last.toNat)

/-- What stands behind an address: the first region that holds it decides, and an address in none is
plain storage (R7, R55). -/
def kindIn : List Region → Word → CellKind
  | [], _ => .storage
  | r :: rs, a => if Region.holds r a then r.kind else kindIn rs a

/-- What stands behind an address on this machine's platform. -/
def State.kindAt (s : State) (a : Word) : CellKind := kindIn s.config.platform a

/-- The memory after stores of a device (R59): it changes the cells that hold a byte, those that the CPU
cannot write among them. -/
def deviceStores (platform : List Region) : Memory → List (Word × Byte) → Memory
  | m, [] => m
  | m, (a, v) :: rest =>
    match kindIn platform a with
    | .storage => deviceStores platform (Memory.write m a.toNat v) rest
    | .readOnly => deviceStores platform (Memory.write m a.toNat v) rest
    | .absent => deviceStores platform m rest
    | .device => deviceStores platform m rest

/-- The state after the devices have acted (R62): their own state, and what they stored. -/
def State.acted (s : State) (d : DeviceAct) : State :=
  { s with mem := deviceStores s.config.platform s.mem d.stores, devices := d.state }

/-- No device acts: their state stays and they store nothing. -/
def State.still (s : State) : DeviceAct where
  state := s.devices
  stores := []

/-- What the devices do between two instructions (R59, decision D9 of the spec): nothing on a platform without
devices, and nothing while the CPU is STOPPED, since the clocks that drive the peripherals are stopped then and
all memory survives (R519). -/
def State.tickAct (s : State) : DeviceAct :=
  if s.config.hasDevices && s.run != .stopped then Config.deviceTick s.devices else s.still

/-- The state after the devices have acted between two instructions. -/
def State.ticked (s : State) : State := s.acted s.tickAct

/-- The byte that `MemRead(addr, 1)` returns (R62). A read of an absent cell is a draw (R67); of a device
cell, the read function of the devices answers. -/
def State.readByte (s : State) (a : Word) : Byte :=
  match s.kindAt a with
  | .storage => Memory.read s.mem a.toNat
  | .readOnly => Memory.read s.mem a.toNat
  | .absent => Config.absentByte s.draws a
  | .device => (Config.deviceRead s.devices a).value

/-- What the devices do at `MemRead(addr, 1)` (R62): only a read of a device cell has a side effect. -/
def State.readAct (s : State) (a : Word) : DeviceAct :=
  match s.kindAt a with
  | .storage => s.still
  | .readOnly => s.still
  | .absent => s.still
  | .device => (Config.deviceRead s.devices a).act

/-- The state after `MemRead(addr, 1)`. -/
def State.reading (s : State) (a : Word) : State := s.acted (s.readAct a)

/-- The state after reads of the addresses, one after the other. -/
def State.readings (s : State) : List Word → State
  | [] => s
  | a :: rest => State.readings (s.reading a) rest

/-- The word that `MemRead(addr, 2)` returns (R63): the byte at the address is read first and is the
high-order byte; the second address wraps. -/
def State.readWord (s : State) (a : Word) : Word := wordOf (s.readByte a) ((s.reading a).readByte (a + 1))

/-- The state after `MemRead(addr, 2)` (R63). -/
def State.readingWord (s : State) (a : Word) : State := (s.reading a).reading (a + 1)

/-- `MemWrite(addr, 1, v)` (R62). A write to a read-only or an absent cell is dropped (R67, R380); one to a
device cell is the write function of the devices. -/
def State.writeByte (s : State) (a : Word) (v : Byte) : State :=
  match s.kindAt a with
  | .storage => { s with mem := Memory.write s.mem a.toNat v }
  | .readOnly => s
  | .absent => s
  | .device => s.acted (Config.deviceWrite s.devices a v)

/-- `MemWrite(addr, 2, v)` (R63): the high byte at the address, then the low byte at the next. -/
def State.writeWord (s : State) (a : Word) (v : Word) : State :=
  (s.writeByte a (highByte v)).writeByte (a + 1) (lowByte v)

/-- An instruction byte (R64, R95): the same cell a data read sees, and of an absent cell a draw of its
own. Its side effect is that of any read, `State.reading`. -/
def State.fetchByte (s : State) (a : Word) : Byte :=
  match s.kindAt a with
  | .storage => Memory.read s.mem a.toNat
  | .readOnly => Memory.read s.mem a.toNat
  | .absent => Config.absentCode s.draws a
  | .device => (Config.deviceRead s.devices a).value

/-- `k` addresses upward from one; they wrap (R54). -/
def addressesFrom (a : Word) : Nat → List Word
  | 0 => []
  | k + 1 => a :: addressesFrom (a + 1) k

/-- The instruction bytes at the addresses, read one after the other (R64). -/
def State.codeAt (s : State) : List Word → List Byte
  | [] => []
  | a :: rest => s.fetchByte a :: State.codeAt (s.reading a) rest

/-- The five bytes from PC upward, the longest an instruction can be (R80, R95), each as it is when all
before it have been read. -/
def State.fetchBytes (s : State) : List Byte := s.codeAt (addressesFrom s.pc 5)

/-- The state after the `k` bytes of the instruction at PC have been read, and no more (R64, log 20). -/
def State.fetched (s : State) (k : Nat) : State := s.readings (addressesFrom s.pc k)

/-! ### Registers -/

/-- D, the pair A : B (R22). -/
def State.d (s : State) : Word := wordOf s.a s.b

/-- `A <- v` -/
def State.setA (s : State) (v : Byte) : State := { s with a := v }

/-- `B <- v` -/
def State.setB (s : State) (v : Byte) : State := { s with b := v }

/-- `D <- v`: A gets bits 15 to 8, B bits 7 to 0 (R9, R22). -/
def State.setD (s : State) (v : Word) : State := { s with a := highByte v, b := lowByte v }

/-- `IX <- v` -/
def State.setIX (s : State) (v : Word) : State := { s with ix := v }

/-- `IY <- v` -/
def State.setIY (s : State) (v : Word) : State := { s with iy := v }

/-- `SP <- v` -/
def State.setSP (s : State) (v : Word) : State := { s with sp := v }

/-- `PC <- v` -/
def State.setPC (s : State) (v : Word) : State := { s with pc := v }

/-- The CCR replaced. -/
def State.setCCR (s : State) (f : CCR) : State := { s with ccr := f }

/-- `run <- v` (R38) -/
def State.setRun (s : State) (v : RunState) : State := { s with run := v }

/-- `i_delay <- v` (R39) -/
def State.setDelay (s : State) (v : Bool) : State := { s with iDelay := v }

/-- PC past an instruction of `k` bytes (R120), and `i_delay` at 0 for the instruction to set again if it
is one that does (R514, log 14). -/
def State.advance (s : State) (k : Nat) : State :=
  { s with pc := s.pc + BitVec.ofNat 16 k, iDelay := false }

/-! ### The stack (R130 to R133) -/

/-- `Push8(v)`: the store is at the address SP holds before the decrement (R130). -/
def State.push8 (s : State) (v : Byte) : State := (s.writeByte s.sp v).setSP (s.sp - 1)

/-- The byte that `Pull8()` returns: at the address SP holds after the increment (R131). -/
def State.top8 (s : State) : Byte := s.readByte (s.sp + 1)

/-- The state after `Pull8()` (R131). -/
def State.drop8 (s : State) : State := (s.reading (s.sp + 1)).setSP (s.sp + 1)

/-- `Push16(v)`: the low byte first (R132). -/
def State.push16 (s : State) (v : Word) : State := (s.push8 (lowByte v)).push8 (highByte v)

/-- The word that `Pull16()` returns: the high byte is pulled first (R133). -/
def State.top16 (s : State) : Word := wordOf s.top8 s.drop8.top8

/-- The state after `Pull16()` (R133). -/
def State.drop16 (s : State) : State := s.drop8.drop8

/-! ### Taking an exception and returning from one -/

/-- The nine-byte frame (R505): return address, IY, IX, A, B, CCR, the CCR as it is before any mask bit
is set. -/
def State.stackFrame (s : State) (returnPc : Word) : State :=
  (((((s.push16 returnPc).push16 s.iy).push16 s.ix).push8 s.a).push8 s.b).push8 s.ccr.toByte

/-- The part of an entry after the stacking (R506): I set, X set for an xirq, `i_delay` cleared, PC from
the vector, `run` RUNNING. -/
def State.vectorTo (s : State) (vector : Word) (setX : Bool) : State :=
  { s.readingWord vector with
    ccr := { s.ccr with i := true, x := setX || s.ccr.x }
    iDelay := false
    pc := s.readWord vector
    run := .running }

/-- `Enter(vector, return_pc, set_x, stack)` (R506); the vector is read after the stacking. -/
def State.enter (s : State) (vector returnPc : Word) (setX stack : Bool) : State :=
  if stack then (s.stackFrame returnPc).vectorTo vector setX else s.vectorTo vector setX

/-- `IllegalOpcode(pc0)` for a code of `k` bytes at `pc0` (R507). -/
def State.illegalOpcode (s : State) (pc0 : Word) (k : Nat) : State :=
  match s.config.illegalStackedPc with
  | .opcodeAddress => s.enter s.config.vecIllop pc0 false true
  | .nextAddress => s.enter s.config.vecIllop (pc0 + BitVec.ofNat 16 k) false true

/-- The return from an entry (R364, R509): CCR, B, A, IX, IY, PC pulled in that order. -/
def State.returnFromInterrupt (s : State) : State :=
  let s1 := s.drop8.setCCR (s.ccr.write s.top8)
  let s2 := s1.drop8.setB s1.top8
  let s3 := s2.drop8.setA s2.top8
  let s4 := s3.drop16.setIX s3.top16
  let s5 := s4.drop16.setIY s4.top16
  s5.drop16.setPC s5.top16

/-- `Reset(v)` (R550): S, X and I set, `i_delay` cleared, `run` RUNNING, PC from the vector, memory not
written. A, B, IX, IY, SP and H, N, Z, V, C are unspecified (R551): free values (log 9). -/
def State.takeReset (s : State) (v : Word) : State :=
  let r := Config.resetRegs s.draws
  { s.readingWord v with
    a := r.a
    b := r.b
    ix := r.ix
    iy := r.iy
    sp := r.sp
    ccr := { s := true, x := true, h := r.h, i := true, n := r.n, z := r.z, v := r.v, c := r.c }
    iDelay := false
    run := .running
    pc := s.readWord v }

end Sys2Proof.Machine
end

