-- ==== Sys2Proof/Machine/Operands.lean ====
section
/-! DEFINITION. The addressing modes (R122 to R129) and the shapes that several instructions share: an
operation on an accumulator, on a byte of memory, on a branch. -/

namespace Sys2Proof.Machine

/-- The effective address of a memory form (R124, R125, R126), from the index registers as they are
before the instruction; it wraps (R54). -/
def State.ea (s : State) : Mem → Word
  | .dir dd => dd.zeroExtend 16
  | .ext a => a
  | .indX ff => s.ix + ff.zeroExtend 16
  | .indY ff => s.iy + ff.zeroExtend 16

/-- `opr8` (R129). -/
def State.opr8 (s : State) : Src8 → Byte
  | .imm ii => ii
  | .mem m => s.readByte (s.ea m)

/-- The state after `opr8` (R129): an immediate reads no memory beyond the instruction. -/
def State.after8 (s : State) : Src8 → State
  | .imm _ => s
  | .mem m => s.reading (s.ea m)

/-- `opr16` (R129). -/
def State.opr16 (s : State) : Src16 → Word
  | .imm v => v
  | .mem m => s.readWord (s.ea m)

/-- The state after `opr16` (R129). -/
def State.after16 (s : State) : Src16 → State
  | .imm _ => s
  | .mem m => s.readingWord (s.ea m)

/-- A branch target (R127): PC is already past the instruction. -/
def State.relTarget (s : State) (rr : Byte) : Word := s.pc + rr.signExtend 16

/-- A branch (R127): to the target when the condition holds, else on. -/
def State.branchIf (s : State) (cond : Bool) (rr : Byte) : State :=
  if cond then s.setPC (s.relTarget rr) else s

/-- A result and its flags into A. -/
def State.resultA (s : State) (p : Byte × CCR) : State := (s.setA p.1).setCCR p.2

/-- A result and its flags into B. -/
def State.resultB (s : State) (p : Byte × CCR) : State := (s.setB p.1).setCCR p.2

/-- A result and its flags into D. -/
def State.resultD (s : State) (p : Word × CCR) : State := (s.setD p.1).setCCR p.2

/-- Read, compute and write back the byte at the effective address, and write the flags (R61). -/
def State.modifyByte (s : State) (m : Mem) (op : Byte → CCR → Byte × CCR) : State :=
  let p := op (s.readByte (s.ea m)) s.ccr
  ((s.reading (s.ea m)).writeByte (s.ea m) p.1).setCCR p.2

/-- Store a byte and take the flags of a store from it (R380). -/
def State.storeByte (s : State) (m : Mem) (v : Byte) : State :=
  (s.writeByte (s.ea m) v).setCCR (s.ccr.logic v)

/-- Store two bytes and take the flags of a store from the word (R382). -/
def State.storeWord (s : State) (m : Mem) (v : Word) : State :=
  (s.writeWord (s.ea m) v).setCCR (s.ccr.logic v)

end Sys2Proof.Machine
end

