-- ==== Sys2Proof/Machine/Arith16.lean ====
section
/-! DEFINITION. Sixteen-bit arithmetic and pointer arithmetic (R201, R202, R207, R273 to R275, R290 to
R292, R300 to R302, R389). -/

namespace Sys2Proof.Machine

/-- ABX (R201): `IX <- (IX + zext_16(B)) mod 2^16`; no flag. -/
def execAbx (s : State) : Result :=
  .next (s.setIX (s.ix + s.b.zeroExtend 16))

/-- ABY (R202): `IY <- (IY + zext_16(B)) mod 2^16`; no flag. -/
def execAby (s : State) : Result :=
  .next (s.setIY (s.iy + s.b.zeroExtend 16))

/-- ADDD (R207): `D <- Add16(D, opr16)`. -/
def execAddd (o : Src16) (s : State) : Result :=
  .next ((s.after16 o).resultD (add16 s.d (s.opr16 o) s.ccr))

/-- SUBD (R389): `D <- Sub16(D, opr16)`. -/
def execSubd (o : Src16) (s : State) : Result :=
  .next ((s.after16 o).resultD (sub16 s.d (s.opr16 o) s.ccr))

/-- CPD (R273): the flags of `Sub16(D, opr16)`, the result discarded. -/
def execCpd (o : Src16) (s : State) : Result :=
  .next ((s.after16 o).setCCR (sub16 s.d (s.opr16 o) s.ccr).2)

/-- CPX (R274): the flags of `Sub16(IX, opr16)`, the result discarded. -/
def execCpx (o : Src16) (s : State) : Result :=
  .next ((s.after16 o).setCCR (sub16 s.ix (s.opr16 o) s.ccr).2)

/-- CPY (R275): the flags of `Sub16(IY, opr16)`, the result discarded. -/
def execCpy (o : Src16) (s : State) : Result :=
  .next ((s.after16 o).setCCR (sub16 s.iy (s.opr16 o) s.ccr).2)

/-- INX (R301): `IX <- (IX + 1) mod 2^16`; Z only. -/
def execInx (s : State) : Result :=
  .next ((s.setIX (s.ix + 1)).setCCR { s.ccr with z := s.ix + 1 == 0 })

/-- INY (R302): `IY <- (IY + 1) mod 2^16`; Z only. -/
def execIny (s : State) : Result :=
  .next ((s.setIY (s.iy + 1)).setCCR { s.ccr with z := s.iy + 1 == 0 })

/-- DEX (R291): `IX <- (IX - 1) mod 2^16`; Z only. -/
def execDex (s : State) : Result :=
  .next ((s.setIX (s.ix - 1)).setCCR { s.ccr with z := s.ix - 1 == 0 })

/-- DEY (R292): `IY <- (IY - 1) mod 2^16`; Z only. -/
def execDey (s : State) : Result :=
  .next ((s.setIY (s.iy - 1)).setCCR { s.ccr with z := s.iy - 1 == 0 })

/-- INS (R300): `SP <- (SP + 1) mod 2^16`; no flag, no memory access. -/
def execIns (s : State) : Result :=
  .next (s.setSP (s.sp + 1))

/-- DES (R290): `SP <- (SP - 1) mod 2^16`; no flag, no memory access. -/
def execDes (s : State) : Result :=
  .next (s.setSP (s.sp - 1))

end Sys2Proof.Machine
end

