-- ==== Sys2Proof/Machine/Arith8.lean ====
section
/-! DEFINITION. Eight-bit addition, subtraction and comparison (R200, R203 to R206, R261, R268, R269,
R366 to R368, R387, R388). -/

namespace Sys2Proof.Machine

/-- ABA (R200): `A <- Add8(A, B, 0)`. -/
def execAba (s : State) : Result :=
  .next (s.resultA (add8 s.a s.b false s.ccr))

/-- ADCA (R203): `A <- Add8(A, opr8, C)`, C as before the instruction. -/
def execAdca (o : Src8) (s : State) : Result :=
  .next ((s.after8 o).resultA (add8 s.a (s.opr8 o) s.ccr.c s.ccr))

/-- ADCB (R204): `B <- Add8(B, opr8, C)`, C as before the instruction. -/
def execAdcb (o : Src8) (s : State) : Result :=
  .next ((s.after8 o).resultB (add8 s.b (s.opr8 o) s.ccr.c s.ccr))

/-- ADDA (R205): `A <- Add8(A, opr8, 0)`. -/
def execAdda (o : Src8) (s : State) : Result :=
  .next ((s.after8 o).resultA (add8 s.a (s.opr8 o) false s.ccr))

/-- ADDB (R206): `B <- Add8(B, opr8, 0)`. -/
def execAddb (o : Src8) (s : State) : Result :=
  .next ((s.after8 o).resultB (add8 s.b (s.opr8 o) false s.ccr))

/-- SBA (R366): `A <- Sub8(A, B, 0)`. -/
def execSba (s : State) : Result :=
  .next (s.resultA (sub8 s.a s.b false s.ccr))

/-- SBCA (R367): `A <- Sub8(A, opr8, C)`, C as before the instruction. -/
def execSbca (o : Src8) (s : State) : Result :=
  .next ((s.after8 o).resultA (sub8 s.a (s.opr8 o) s.ccr.c s.ccr))

/-- SBCB (R368): `B <- Sub8(B, opr8, C)`, C as before the instruction. -/
def execSbcb (o : Src8) (s : State) : Result :=
  .next ((s.after8 o).resultB (sub8 s.b (s.opr8 o) s.ccr.c s.ccr))

/-- SUBA (R387): `A <- Sub8(A, opr8, 0)`. -/
def execSuba (o : Src8) (s : State) : Result :=
  .next ((s.after8 o).resultA (sub8 s.a (s.opr8 o) false s.ccr))

/-- SUBB (R388): `B <- Sub8(B, opr8, 0)`. -/
def execSubb (o : Src8) (s : State) : Result :=
  .next ((s.after8 o).resultB (sub8 s.b (s.opr8 o) false s.ccr))

/-- CBA (R261): the flags of `Sub8(A, B, 0)`, the result discarded. -/
def execCba (s : State) : Result :=
  .next (s.setCCR (sub8 s.a s.b false s.ccr).2)

/-- CMPA (R268): the flags of `Sub8(A, opr8, 0)`, the result discarded. -/
def execCmpa (o : Src8) (s : State) : Result :=
  .next ((s.after8 o).setCCR (sub8 s.a (s.opr8 o) false s.ccr).2)

/-- CMPB (R269): the flags of `Sub8(B, opr8, 0)`, the result discarded. -/
def execCmpb (o : Src8) (s : State) : Result :=
  .next ((s.after8 o).setCCR (sub8 s.b (s.opr8 o) false s.ccr).2)

end Sys2Proof.Machine
end

