-- ==== Sys2Proof/Machine/Branch.lean ====
section
/-! DEFINITION. Branches, bit manipulation, jumps and subroutines (R141, R142, R223 to R246, R260, R303,
R304, R365). -/

namespace Sys2Proof.Machine

/-- BCC (R223): branches when `C == 0`. -/
def execBcc (rr : Byte) (s : State) : Result :=
  .next (s.branchIf (!s.ccr.c) rr)

/-- BCS (R225): branches when `C == 1`. -/
def execBcs (rr : Byte) (s : State) : Result :=
  .next (s.branchIf s.ccr.c rr)

/-- BEQ (R226): branches when `Z == 1`. -/
def execBeq (rr : Byte) (s : State) : Result :=
  .next (s.branchIf s.ccr.z rr)

/-- BGE (R227): branches when `(N ^ V) == 0`. -/
def execBge (rr : Byte) (s : State) : Result :=
  .next (s.branchIf s.ccr.greaterOrEqual rr)

/-- BGT (R228): branches when `(Z | (N ^ V)) == 0`. -/
def execBgt (rr : Byte) (s : State) : Result :=
  .next (s.branchIf s.ccr.greater rr)

/-- BHI (R229): branches when `(C | Z) == 0`. -/
def execBhi (rr : Byte) (s : State) : Result :=
  .next (s.branchIf s.ccr.higher rr)

/-- BHS (R230): the second name of BCC: branches when `C == 0` (R91). -/
def execBhs (rr : Byte) (s : State) : Result :=
  .next (s.branchIf (!s.ccr.c) rr)

/-- BLE (R233): branches when `(Z | (N ^ V)) == 1`. -/
def execBle (rr : Byte) (s : State) : Result :=
  .next (s.branchIf s.ccr.lessOrEqual rr)

/-- BLO (R234): the second name of BCS: branches when `C == 1` (R91). -/
def execBlo (rr : Byte) (s : State) : Result :=
  .next (s.branchIf s.ccr.c rr)

/-- BLS (R235): branches when `(C | Z) == 1`. -/
def execBls (rr : Byte) (s : State) : Result :=
  .next (s.branchIf s.ccr.lowerOrSame rr)

/-- BLT (R236): branches when `(N ^ V) == 1`. -/
def execBlt (rr : Byte) (s : State) : Result :=
  .next (s.branchIf s.ccr.less rr)

/-- BMI (R237): branches when `N == 1`. -/
def execBmi (rr : Byte) (s : State) : Result :=
  .next (s.branchIf s.ccr.n rr)

/-- BNE (R238): branches when `Z == 0`. -/
def execBne (rr : Byte) (s : State) : Result :=
  .next (s.branchIf (!s.ccr.z) rr)

/-- BPL (R239): branches when `N == 0`. -/
def execBpl (rr : Byte) (s : State) : Result :=
  .next (s.branchIf (!s.ccr.n) rr)

/-- BRA (R240): always branches. -/
def execBra (rr : Byte) (s : State) : Result :=
  .next (s.branchIf true rr)

/-- BRN (R242): never branches: PC is already at the next instruction. -/
def execBrn (_rr : Byte) (s : State) : Result :=
  .next s

/-- BSR (R245): `Push16(PC)`, then PC to the target computed from the PC that is pushed. -/
def execBsr (rr : Byte) (s : State) : Result :=
  .next ((s.push16 s.pc).setPC (s.relTarget rr))

/-- BVC (R246): branches when `V == 0`. -/
def execBvc (rr : Byte) (s : State) : Result :=
  .next (s.branchIf (!s.ccr.v) rr)

/-- BVS (R260): branches when `V == 1`. -/
def execBvs (rr : Byte) (s : State) : Result :=
  .next (s.branchIf s.ccr.v rr)

/-- BCLR (R224): `r <- m & ~mm`; N and Z from r, V cleared, C kept. -/
def execBclr (m : Mem) (mm : Byte) (s : State) : Result :=
  .next (s.modifyByte m fun x f => (x &&& ~~~mm, f.logic (x &&& ~~~mm)))

/-- BSET (R244): `r <- m | mm`; N and Z from r, V cleared, C kept. -/
def execBset (m : Mem) (mm : Byte) (s : State) : Result :=
  .next (s.modifyByte m fun x f => (x ||| mm, f.logic (x ||| mm)))

/-- BRCLR (R241): branches when `(m & mm) == 0`; memory is not written. -/
def execBrclr (m : Mem) (mm rr : Byte) (s : State) : Result :=
  .next ((s.reading (s.ea m)).branchIf (s.readByte (s.ea m) &&& mm == 0) rr)

/-- BRSET (R243): branches when `(~m & mm) == 0`; memory is not written. -/
def execBrset (m : Mem) (mm rr : Byte) (s : State) : Result :=
  .next ((s.reading (s.ea m)).branchIf (~~~(s.readByte (s.ea m)) &&& mm == 0) rr)

/-- JMP (R303): `PC <- EA`. -/
def execJmp (m : Mem) (s : State) : Result :=
  .next (s.setPC (s.ea m))

/-- JSR (R304): EA is computed, `Push16(PC)`, then PC to EA. -/
def execJsr (m : Mem) (s : State) : Result :=
  .next ((s.push16 s.pc).setPC (s.ea m))

/-- RTS (R365): `PC <- Pull16()`. -/
def execRts (s : State) : Result :=
  .next (s.drop16.setPC s.top16)

end Sys2Proof.Machine
end

