-- ==== Sys2Proof/Machine/LoadStore.lean ====
section
/-! DEFINITION. Loads and stores (R305 to R307, R320 to R322, R380 to R382, R384 to R386). -/

namespace Sys2Proof.Machine

/-- LDAA (R305): `A <- opr8`; N and Z from it, V cleared, C kept. -/
def execLdaa (o : Src8) (s : State) : Result :=
  .next ((s.after8 o).resultA (s.opr8 o, s.ccr.logic (s.opr8 o)))

/-- LDAB (R306): `B <- opr8`; N and Z from it, V cleared, C kept. -/
def execLdab (o : Src8) (s : State) : Result :=
  .next ((s.after8 o).resultB (s.opr8 o, s.ccr.logic (s.opr8 o)))

/-- LDD (R307): `D <- opr16`, the byte at the lower address to A; N and Z from the word, V cleared. -/
def execLdd (o : Src16) (s : State) : Result :=
  .next (((s.after16 o).setD (s.opr16 o)).setCCR (s.ccr.logic (s.opr16 o)))

/-- LDS (R320): `SP <- opr16`, its address from the old registers; N and Z from the word, V cleared. -/
def execLds (o : Src16) (s : State) : Result :=
  .next (((s.after16 o).setSP (s.opr16 o)).setCCR (s.ccr.logic (s.opr16 o)))

/-- LDX (R321): `IX <- opr16`, its address from the old registers; N and Z from the word, V cleared. -/
def execLdx (o : Src16) (s : State) : Result :=
  .next (((s.after16 o).setIX (s.opr16 o)).setCCR (s.ccr.logic (s.opr16 o)))

/-- LDY (R322): `IY <- opr16`, its address from the old registers; N and Z from the word, V cleared. -/
def execLdy (o : Src16) (s : State) : Result :=
  .next (((s.after16 o).setIY (s.opr16 o)).setCCR (s.ccr.logic (s.opr16 o)))

/-- STAA (R380): `MemWrite(EA, 1, A)`; the flags come from A. -/
def execStaa (m : Mem) (s : State) : Result :=
  .next (s.storeByte m s.a)

/-- STAB (R381): `MemWrite(EA, 1, B)`; the flags come from B. -/
def execStab (m : Mem) (s : State) : Result :=
  .next (s.storeByte m s.b)

/-- STD (R382): `MemWrite(EA, 2, A : B)`; the flags come from the word. -/
def execStd (m : Mem) (s : State) : Result :=
  .next (s.storeWord m s.d)

/-- STS (R384): `MemWrite(EA, 2, SP)`; the flags come from the word. -/
def execSts (m : Mem) (s : State) : Result :=
  .next (s.storeWord m s.sp)

/-- STX (R385): `MemWrite(EA, 2, IX)`; the flags come from the word. -/
def execStx (m : Mem) (s : State) : Result :=
  .next (s.storeWord m s.ix)

/-- STY (R386): `MemWrite(EA, 2, IY)`; the flags come from the word. -/
def execSty (m : Mem) (s : State) : Result :=
  .next (s.storeWord m s.iy)

end Sys2Proof.Machine
end

