-- ==== Sys2Proof/Machine/Logic.lean ====
section
/-! DEFINITION. Logic on the accumulators (R208, R209, R231, R232, R293, R294, R336, R337). -/

namespace Sys2Proof.Machine

/-- ANDA (R208): `A <- A & opr8`; N and Z from it, V cleared, C kept. -/
def execAnda (o : Src8) (s : State) : Result :=
  .next ((s.after8 o).resultA (s.a &&& s.opr8 o, s.ccr.logic (s.a &&& s.opr8 o)))

/-- ANDB (R209): `B <- B & opr8`; N and Z from it, V cleared, C kept. -/
def execAndb (o : Src8) (s : State) : Result :=
  .next ((s.after8 o).resultB (s.b &&& s.opr8 o, s.ccr.logic (s.b &&& s.opr8 o)))

/-- BITA (R231): the flags of `A & opr8`, the result discarded. -/
def execBita (o : Src8) (s : State) : Result :=
  .next ((s.after8 o).setCCR (s.ccr.logic (s.a &&& s.opr8 o)))

/-- BITB (R232): the flags of `B & opr8`, the result discarded. -/
def execBitb (o : Src8) (s : State) : Result :=
  .next ((s.after8 o).setCCR (s.ccr.logic (s.b &&& s.opr8 o)))

/-- EORA (R293): `A <- A ^ opr8`; N and Z from it, V cleared, C kept. -/
def execEora (o : Src8) (s : State) : Result :=
  .next ((s.after8 o).resultA (s.a ^^^ s.opr8 o, s.ccr.logic (s.a ^^^ s.opr8 o)))

/-- EORB (R294): `B <- B ^ opr8`; N and Z from it, V cleared, C kept. -/
def execEorb (o : Src8) (s : State) : Result :=
  .next ((s.after8 o).resultB (s.b ^^^ s.opr8 o, s.ccr.logic (s.b ^^^ s.opr8 o)))

/-- ORAA (R336): `A <- A | opr8`; N and Z from it, V cleared, C kept. -/
def execOraa (o : Src8) (s : State) : Result :=
  .next ((s.after8 o).resultA (s.a ||| s.opr8 o, s.ccr.logic (s.a ||| s.opr8 o)))

/-- ORAB (R337): `B <- B | opr8`; N and Z from it, V cleared, C kept. -/
def execOrab (o : Src8) (s : State) : Result :=
  .next ((s.after8 o).resultB (s.b ||| s.opr8 o, s.ccr.logic (s.b ||| s.opr8 o)))

end Sys2Proof.Machine
end

