-- ==== Sys2Proof/Machine/MulDiv.lean ====
section
/-! DEFINITION. Multiply, divide and decimal adjust (R276, R295, R296, R331). -/

namespace Sys2Proof.Machine

/-- MUL (R331): `D <- A * B`, unsigned; C is bit 7 of the product, N Z V kept. -/
def execMul (s : State) : Result :=
  .next ((s.setD (BitVec.ofNat 16 (s.a.toNat * s.b.toNat))).setCCR
    { s.ccr with c := (BitVec.ofNat 16 (s.a.toNat * s.b.toNat)).getLsbD 7 })

/-- IDIV (R296): `IX <- D div IX`, `D <- D mod IX`, unsigned. A division by zero does not trap: IX is
`$FFFF`, C is 1, and D is a free value (log 8). -/
def execIdiv (s : State) : Result :=
  if s.ix = 0 then
    .next (((s.setIX 0xFFFF).setD (Config.undefDDiv s.draws)).setCCR
      { s.ccr with z := false, v := false, c := true })
  else
    .next (((s.setIX (s.d / s.ix)).setD (s.d % s.ix)).setCCR
      { s.ccr with z := s.d / s.ix == 0, v := false, c := false })

/-- FDIV (R295): `IX <- (D * 65536) div IX`, `D <- (D * 65536) mod IX`, unsigned, when D is below IX.
Otherwise, and so for IX = 0 too, IX is `$FFFF`, V is 1, C tells a zero divisor, and D is a free value
(log 8). -/
def execFdiv (s : State) : Result :=
  if s.ix.toNat ≤ s.d.toNat then
    .next (((s.setIX 0xFFFF).setD (Config.undefDDiv s.draws)).setCCR
      { s.ccr with z := false, v := true, c := s.ix == 0 })
  else
    let q := BitVec.ofNat 16 (s.d.toNat * 65536 / s.ix.toNat)
    let r := BitVec.ofNat 16 (s.d.toNat * 65536 % s.ix.toNat)
    .next (((s.setIX q).setD r).setCCR { s.ccr with z := q == 0, v := false, c := false })

/-- DAA (R276): on the inputs of the rule's table the correction of R276 with V a free value (U4); on
every other input A, N, Z and C are free values as well (U5, log 7). H is kept. -/
def execDaa (s : State) : Result :=
  if daaListed s.a s.ccr then
    .next (s.resultA (daaAdjust s.a (Config.undefVDaa s.draws) s.ccr))
  else
    let r := Config.daaOutside s.draws
    .next (s.resultA (r.a, { s.ccr with n := r.n, z := r.z, c := r.c, v := Config.undefVDaa s.draws }))

end Sys2Proof.Machine
end

