-- ==== Sys2Proof/Machine/Shift.lean ====
section
/-! DEFINITION. Shifts and rotates (R139, R210 to R213, R220 to R222, R323 to R330, R358 to R363). -/

namespace Sys2Proof.Machine

/-- ASL (R210): `Asl_8` of the byte at EA (R139). -/
def execAsl (m : Mem) (s : State) : Result :=
  .next (s.modifyByte m asl)

/-- ASLA (R211): `Asl_8` of A (R139). -/
def execAsla (s : State) : Result :=
  .next (s.resultA (asl s.a s.ccr))

/-- ASLB (R212): `Asl_8` of B (R139). -/
def execAslb (s : State) : Result :=
  .next (s.resultB (asl s.b s.ccr))

/-- ASR (R220): `Asr_8` of the byte at EA (R139). -/
def execAsr (m : Mem) (s : State) : Result :=
  .next (s.modifyByte m asr8)

/-- ASRA (R221): `Asr_8` of A (R139). -/
def execAsra (s : State) : Result :=
  .next (s.resultA (asr8 s.a s.ccr))

/-- ASRB (R222): `Asr_8` of B (R139). -/
def execAsrb (s : State) : Result :=
  .next (s.resultB (asr8 s.b s.ccr))

/-- LSL (R323): the second name of ASL: `Asl_8` of the byte at EA (R91, R139). -/
def execLsl (m : Mem) (s : State) : Result :=
  .next (s.modifyByte m asl)

/-- LSLA (R324): the second name of ASLA: `Asl_8` of A (R91, R139). -/
def execLsla (s : State) : Result :=
  .next (s.resultA (asl s.a s.ccr))

/-- LSLB (R325): the second name of ASLB: `Asl_8` of B (R91, R139). -/
def execLslb (s : State) : Result :=
  .next (s.resultB (asl s.b s.ccr))

/-- LSR (R327): `Lsr_8` of the byte at EA (R139). -/
def execLsr (m : Mem) (s : State) : Result :=
  .next (s.modifyByte m lsr)

/-- LSRA (R328): `Lsr_8` of A (R139). -/
def execLsra (s : State) : Result :=
  .next (s.resultA (lsr s.a s.ccr))

/-- LSRB (R329): `Lsr_8` of B (R139). -/
def execLsrb (s : State) : Result :=
  .next (s.resultB (lsr s.b s.ccr))

/-- ROL (R358): `Rol_8` through C of the byte at EA (R139). -/
def execRol (m : Mem) (s : State) : Result :=
  .next (s.modifyByte m rol8)

/-- ROLA (R359): `Rol_8` through C of A (R139). -/
def execRola (s : State) : Result :=
  .next (s.resultA (rol8 s.a s.ccr))

/-- ROLB (R360): `Rol_8` through C of B (R139). -/
def execRolb (s : State) : Result :=
  .next (s.resultB (rol8 s.b s.ccr))

/-- ROR (R361): `Ror_8` through C of the byte at EA (R139). -/
def execRor (m : Mem) (s : State) : Result :=
  .next (s.modifyByte m ror8)

/-- RORA (R362): `Ror_8` through C of A (R139). -/
def execRora (s : State) : Result :=
  .next (s.resultA (ror8 s.a s.ccr))

/-- RORB (R363): `Ror_8` through C of B (R139). -/
def execRorb (s : State) : Result :=
  .next (s.resultB (ror8 s.b s.ccr))

/-- ASLD (R213): `Asl_16` of D (R139). -/
def execAsld (s : State) : Result :=
  .next (s.resultD (asl s.d s.ccr))

/-- LSLD (R326): the second name of ASLD: `Asl_16` of D (R91, R139). -/
def execLsld (s : State) : Result :=
  .next (s.resultD (asl s.d s.ccr))

/-- LSRD (R330): `Lsr_16` of D (R139). -/
def execLsrd (s : State) : Result :=
  .next (s.resultD (lsr s.d s.ccr))

end Sys2Proof.Machine
end

