-- ==== Sys2Proof/Machine/Stack.lean ====
section
/-! DEFINITION. Pushes and pulls (R350 to R357). -/

namespace Sys2Proof.Machine

/-- PSHA (R350): `Push8(A)`; no flag. -/
def execPsha (s : State) : Result :=
  .next (s.push8 s.a)

/-- PSHB (R351): `Push8(B)`; no flag. -/
def execPshb (s : State) : Result :=
  .next (s.push8 s.b)

/-- PSHX (R352): `Push16(IX)`; no flag. -/
def execPshx (s : State) : Result :=
  .next (s.push16 s.ix)

/-- PSHY (R353): `Push16(IY)`; no flag. -/
def execPshy (s : State) : Result :=
  .next (s.push16 s.iy)

/-- PULA (R354): `A <- Pull8()`; no flag. -/
def execPula (s : State) : Result :=
  .next (s.drop8.setA s.top8)

/-- PULB (R355): `B <- Pull8()`; no flag. -/
def execPulb (s : State) : Result :=
  .next (s.drop8.setB s.top8)

/-- PULX (R356): `IX <- Pull16()`; no flag. -/
def execPulx (s : State) : Result :=
  .next (s.drop16.setIX s.top16)

/-- PULY (R357): `IY <- Pull16()`; no flag. -/
def execPuly (s : State) : Result :=
  .next (s.drop16.setIY s.top16)

end Sys2Proof.Machine
end

