-- ==== Sys2Proof/Machine/System.lean ====
section
/-! DEFINITION. NOP and the system instructions (R335, R364, R383, R390, R394, R413). -/

namespace Sys2Proof.Machine

/-- NOP (R335): nothing: PC has already moved on (R120). -/
def execNop (s : State) : Result :=
  .next s

/-- SWI (R390): `Enter(VEC_SWI, PC, set_x = false, stack = true)` (R506, R508). -/
def execSwi (s : State) : Result :=
  .next (s.enter s.config.vecSwi s.pc false true)

/-- RTI (R364): pulls CCR (R140), B, A, IX, IY, PC (R509). -/
def execRti (s : State) : Result :=
  .next s.returnFromInterrupt

/-- WAI (R413): stacks the frame of R505 with the address of the next instruction, then waits. -/
def execWai (s : State) : Result :=
  .next ((s.stackFrame s.pc).setRun .waiting)

/-- STOP (R383): a NOP when S = 1, else the clocks stop. -/
def execStop (s : State) : Result :=
  .next (if s.ccr.s then s else s.setRun .stopped)

/-- TEST (R394): in a test mode the CPU locks until reset; otherwise `00` is an unassigned opcode, at
the address before PC. -/
def execTest (s : State) : Result :=
  .next (if s.config.testMode then s.setRun .testLock else s.illegalOpcode (s.pc - 1) 1)

end Sys2Proof.Machine
end

