-- ==== Sys2Proof/Machine/Transfer.lean ====
section
/-! DEFINITION. Register transfers and exchanges, and the instructions on single CCR bits (R262, R263,
R267, R369 to R371, R391 to R393, R395, R399, R410 to R412, R414, R415). -/

namespace Sys2Proof.Machine

/-- TAB (R391): `B <- A`; N and Z from it, V cleared. -/
def execTab (s : State) : Result :=
  .next (s.resultB (s.a, s.ccr.logic s.a))

/-- TBA (R393): `A <- B`; N and Z from it, V cleared. -/
def execTba (s : State) : Result :=
  .next (s.resultA (s.b, s.ccr.logic s.b))

/-- TAP (R392): A to the CCR by R140; `i_delay <- 1` when that changes I from 1 to 0 and I_CLEAR_DELAY
(R39, R514). -/
def execTap (s : State) : Result :=
  .next ((s.setDelay (s.iDelay || (s.ccr.i && !s.a.getLsbD 4 && s.config.iClearDelay))).setCCR (s.ccr.write s.a))

/-- TPA (R395): `A <- CCR`; no flag. -/
def execTpa (s : State) : Result :=
  .next (s.setA s.ccr.toByte)

/-- TSX (R399): `IX <- (SP + 1) mod 2^16`; no flag. -/
def execTsx (s : State) : Result :=
  .next (s.setIX (s.sp + 1))

/-- TSY (R410): `IY <- (SP + 1) mod 2^16`; no flag. -/
def execTsy (s : State) : Result :=
  .next (s.setIY (s.sp + 1))

/-- TXS (R411): `SP <- (IX - 1) mod 2^16`; no flag. -/
def execTxs (s : State) : Result :=
  .next (s.setSP (s.ix - 1))

/-- TYS (R412): `SP <- (IY - 1) mod 2^16`; no flag. -/
def execTys (s : State) : Result :=
  .next (s.setSP (s.iy - 1))

/-- XGDX (R414): D and IX exchanged, both as before the instruction (R143); no flag. -/
def execXgdx (s : State) : Result :=
  .next ((s.setIX s.d).setD s.ix)

/-- XGDY (R415): D and IY exchanged, both as before the instruction (R143); no flag. -/
def execXgdy (s : State) : Result :=
  .next ((s.setIY s.d).setD s.iy)

/-- CLC (R262): `C <- 0`, the other seven bits kept. -/
def execClc (s : State) : Result :=
  .next (s.setCCR { s.ccr with c := false })

/-- CLI (R263): `I <- 0`; `i_delay <- 1` when I was 1 and I_CLEAR_DELAY (R39, R514). -/
def execCli (s : State) : Result :=
  .next ((s.setDelay (s.iDelay || (s.ccr.i && s.config.iClearDelay))).setCCR { s.ccr with i := false })

/-- CLV (R267): `V <- 0`, the other seven bits kept. -/
def execClv (s : State) : Result :=
  .next (s.setCCR { s.ccr with v := false })

/-- SEC (R369): `C <- 1`, the other seven bits kept. -/
def execSec (s : State) : Result :=
  .next (s.setCCR { s.ccr with c := true })

/-- SEI (R370): `I <- 1`, the other seven bits kept. -/
def execSei (s : State) : Result :=
  .next (s.setCCR { s.ccr with i := true })

/-- SEV (R371): `V <- 1`, the other seven bits kept. -/
def execSev (s : State) : Result :=
  .next (s.setCCR { s.ccr with v := true })

end Sys2Proof.Machine
end

