-- ==== Sys2Proof/Machine/Unary.lean ====
section
/-! DEFINITION. Increment, decrement, negate, complement, clear and test of a byte (R264 to R266, R270
to R272, R277 to R279, R297 to R299, R332 to R334, R396 to R398). -/

namespace Sys2Proof.Machine

/-- CLR (R264): `MemWrite(EA, 1, $00)`, with no read (R66); N Z V C = 0 1 0 0. -/
def execClr (m : Mem) (s : State) : Result :=
  .next ((s.writeByte (s.ea m) 0).setCCR s.ccr.clear)

/-- CLRA (R265): `A <- $00`; N Z V C = 0 1 0 0. -/
def execClra (s : State) : Result :=
  .next (s.resultA (0, s.ccr.clear))

/-- CLRB (R266): `B <- $00`; N Z V C = 0 1 0 0. -/
def execClrb (s : State) : Result :=
  .next (s.resultB (0, s.ccr.clear))

/-- COM (R270): complements the byte at EA. -/
def execCom (m : Mem) (s : State) : Result :=
  .next (s.modifyByte m com8)

/-- COMA (R271): `A <- ~A`. -/
def execComa (s : State) : Result :=
  .next (s.resultA (com8 s.a s.ccr))

/-- COMB (R272): `B <- ~B`. -/
def execComb (s : State) : Result :=
  .next (s.resultB (com8 s.b s.ccr))

/-- DEC (R277): decrements the byte at EA. -/
def execDec (m : Mem) (s : State) : Result :=
  .next (s.modifyByte m dec8)

/-- DECA (R278): `A <- A - 1`. -/
def execDeca (s : State) : Result :=
  .next (s.resultA (dec8 s.a s.ccr))

/-- DECB (R279): `B <- B - 1`. -/
def execDecb (s : State) : Result :=
  .next (s.resultB (dec8 s.b s.ccr))

/-- INC (R297): increments the byte at EA. -/
def execInc (m : Mem) (s : State) : Result :=
  .next (s.modifyByte m inc8)

/-- INCA (R298): `A <- A + 1`. -/
def execInca (s : State) : Result :=
  .next (s.resultA (inc8 s.a s.ccr))

/-- INCB (R299): `B <- B + 1`. -/
def execIncb (s : State) : Result :=
  .next (s.resultB (inc8 s.b s.ccr))

/-- NEG (R332): negates the byte at EA. -/
def execNeg (m : Mem) (s : State) : Result :=
  .next (s.modifyByte m neg8)

/-- NEGA (R333): `A <- 0 - A`. -/
def execNega (s : State) : Result :=
  .next (s.resultA (neg8 s.a s.ccr))

/-- NEGB (R334): `B <- 0 - B`. -/
def execNegb (s : State) : Result :=
  .next (s.resultB (neg8 s.b s.ccr))

/-- TST (R396): N and Z from the byte at EA, V and C cleared; memory is not written. -/
def execTst (m : Mem) (s : State) : Result :=
  .next ((s.reading (s.ea m)).setCCR (s.ccr.test (s.readByte (s.ea m))))

/-- TSTA (R397): N and Z from A, V and C cleared. -/
def execTsta (s : State) : Result :=
  .next (s.setCCR (s.ccr.test s.a))

/-- TSTB (R398): N and Z from B, V and C cleared. -/
def execTstb (s : State) : Result :=
  .next (s.setCCR (s.ccr.test s.b))

end Sys2Proof.Machine
end

