-- ==== Sys2Proof/Machine/Interrupt.lean ====
section
/-! DEFINITION. What happens at an instruction boundary before an instruction (R510): the oracle's
answer, the masks (R512, R513, R514), the priority (R515), and leaving WAIT, STOP and the TEST lock
(R518, R519, R520). -/

namespace Sys2Proof.Machine

/-- The oracle's answer at this boundary (R7, R510), asked when the devices have acted. -/
def State.requests (s : State) : List Request :=
  match s.oracle.coming with
  | reqs :: _ => reqs
  | [] =>
    match s.oracle.rest with
    | .always reqs => reqs
    | .platform => Config.intRequest s.ticked.devices s.draws

/-- The state once the devices have acted, if their clocks run, and the oracle has been asked: its next answer is for the next
boundary, and the free values of this step are new ones (log 6). -/
def State.asked (s : State) : State := { s.ticked with oracle := s.oracle.next, draws := s.draws + 1 }

/-- The first request of a class, in the oracle's order (R515, log 18). -/
def firstOf (cls : RequestClass) : List Request → Option Request
  | [] => none
  | r :: rs => if r.cls = cls then some r else firstOf cls rs

/-- The maskable request with the highest vector address (R515). -/
def highestMaskable : List Request → Option Request
  | [] => none
  | r :: rs =>
    match highestMaskable rs with
    | none => if r.cls = .maskable then some r else none
    | some q => if r.cls = .maskable ∧ q.vector.toNat ≤ r.vector.toNat then some r else some q

/-- The request that the masks allow and the priority chooses (R512 to R515): an xirq if X = 0, else a
maskable one if I = 0 and `i_delay` = 0. -/
def State.allowed (s : State) (reqs : List Request) : Option Request :=
  match (if s.ccr.x then none else firstOf .xirq reqs) with
  | some r => some r
  | none => if s.ccr.i || s.iDelay then none else highestMaskable reqs

/-- A request of the IRQ pin: a maskable one that carries the vector VEC_IRQ (R519, log 12). -/
def State.irqPin (s : State) (reqs : List Request) : Bool :=
  reqs.any fun r => r.cls == .maskable && r.vector == s.config.vecIrq

/-- Waking from STOP (R519), in the order the rule lists the ways. -/
def State.stoppedBoundary (s : State) (reqs : List Request) : State :=
  match firstOf .xirq reqs with
  | some _ => if s.ccr.x then s.setRun .running else s.enter s.config.vecXirq s.pc true true
  | none =>
    if s.irqPin reqs && !s.ccr.i then s.enter s.config.vecIrq s.pc false true else s

/-- Waking from WAI (R518): the frame is already stacked; a masked request does not end the wait. -/
def State.waitingBoundary (s : State) (reqs : List Request) : State :=
  match s.allowed reqs with
  | some r => s.enter r.vector s.pc (r.cls == .xirq) false
  | none => s

/-- What the boundary does with the oracle's answer (R510): the state it leads to, or none when an
instruction is to be executed. -/
def State.boundary (s : State) (reqs : List Request) : Option State :=
  match firstOf .reset reqs with
  | some r => some (s.takeReset r.vector)
  | none =>
    match s.run with
    | .testLock => some s
    | .stopped => some (s.stoppedBoundary reqs)
    | .waiting => some (s.waitingBoundary reqs)
    | .running =>
      match s.allowed reqs with
      | some r => some (s.enter r.vector s.pc (r.cls == .xirq) true)
      | none => none

end Sys2Proof.Machine
end

