-- ==== Sys2Proof/Machine/Load.lean ====
section
/-! DEFINITION. Placing code in memory from outside the machine (R553): no step does this. -/

namespace Sys2Proof.Machine

/-- The platform with storage at one address more. -/
def withStorage (c : Config) (a : Word) : Config :=
  { c with platform := ⟨a, a, .storage⟩ :: c.platform }

/-- The platform with storage at an address that had nothing or a device behind it (log 21). -/
def State.expose (s : State) (a : Word) : State :=
  match s.kindAt a with
  | .storage => s
  | .readOnly => s
  | .absent => { s with config := withStorage s.config a }
  | .device => { s with config := withStorage s.config a }

/-- One byte placed at an address, in a read-only cell too. -/
def State.loadByte (s : State) (a : Word) (v : Byte) : State :=
  let t := s.expose a
  { t with mem := Memory.write t.mem a.toNat v }

/-- Bytes placed at rising addresses. -/
def State.loadBytes (s : State) (a : Word) : List Byte → State
  | [] => s
  | v :: vs => State.loadBytes (s.loadByte a v) (a + 1) vs

/-- Code placed at PC so that the very next step runs it: the CPU is running and no request is pending
at the next boundary (log 21). -/
def State.loadCode (s : State) (code : List Byte) : State :=
  let t := s.loadBytes s.pc code
  { t with run := .running, oracle := t.oracle.quietNext }

end Sys2Proof.Machine
end

