-- ==== Sys2Proof/Machine/Step.lean ====
section
/-! DEFINITION. One step of the machine: the boundary (R510), then, if it leads to no entry, one
instruction (R120). -/

namespace Sys2Proof.Machine

/-- One instruction (R120): the bytes at PC read and decoded, PC past them, and the meaning; or, where the bytes
are no instruction, the illegal-opcode trap (R507). -/
def State.instruction (s : State) : Result :=
  match decode s.fetchBytes with
  | .ok d => exec d.instr ((s.fetched d.length).advance d.length)
  | .error e => .next ((s.fetched e.consumed).illegalOpcode s.pc e.consumed)

/-- One step (R120, R510). -/
def step (s : State) : Host.Outcome State Fault Refusal :=
  match s.asked.boundary s.requests with
  | some t => .next t
  | none => s.asked.instruction

/-- The state with the instruction of a table word placed where the next step fetches (log 21). -/
def State.withFetchWord (s : State) (nbits w : Nat) : State := s.loadCode (tableBytes nbits w)

end Sys2Proof.Machine
end

