-- ==== Sys2Proof/Machine/Timing.lean ====
section
/-! DEFINITION. The Cycles column of Table 1 as a function of the instruction (R570 to R573). Timing is not
normative: no state holds a cycle count and no meaning reads one (log 19). A form that a mnemonic lacks
has no line and no count. -/

namespace Sys2Proof.Machine

/-- An entry of the Cycles column (R571). -/
inductive Cycles where
  /-- a number of E-clock cycles -/
  | fixed (n : Nat)
  /-- `*`, TEST: infinity or until reset occurs -/
  | untilReset
  /-- `**`, WAI: `before` cycles, then any whole number of cycles, then `after` cycles -/
  | waits (before after : Nat)
  /-- no line of the table has this form -/
  | noLine
deriving DecidableEq, Repr

/-- The counts of a memory form: DIR, EXT, IND,X, IND,Y. -/
def memCycles (dir ext indX indY : Cycles) : Mem → Cycles
  | .dir _ => dir
  | .ext _ => ext
  | .indX _ => indX
  | .indY _ => indY

/-- The counts of an 8-bit source form: IMM, DIR, EXT, IND,X, IND,Y. -/
def src8Cycles (imm dir ext indX indY : Nat) : Src8 → Cycles
  | .imm _ => .fixed imm
  | .mem m => memCycles (.fixed dir) (.fixed ext) (.fixed indX) (.fixed indY) m

/-- The counts of a 16-bit source form: IMM, DIR, EXT, IND,X, IND,Y. -/
def src16Cycles (imm dir ext indX indY : Nat) : Src16 → Cycles
  | .imm _ => .fixed imm
  | .mem m => memCycles (.fixed dir) (.fixed ext) (.fixed indX) (.fixed indY) m

/-- The Cycles column of Table 1 (R570). -/
def cyclesOf : Instr → Cycles
  | .aba => .fixed 2
  | .abx => .fixed 3
  | .aby => .fixed 4
  | .adca o => src8Cycles 2 3 4 4 5 o
  | .adcb o => src8Cycles 2 3 4 4 5 o
  | .adda o => src8Cycles 2 3 4 4 5 o
  | .addb o => src8Cycles 2 3 4 4 5 o
  | .addd o => src16Cycles 4 5 6 6 7 o
  | .anda o => src8Cycles 2 3 4 4 5 o
  | .andb o => src8Cycles 2 3 4 4 5 o
  | .asl m => memCycles .noLine (.fixed 6) (.fixed 6) (.fixed 7) m
  | .asla => .fixed 2
  | .aslb => .fixed 2
  | .asld => .fixed 3
  | .asr m => memCycles .noLine (.fixed 6) (.fixed 6) (.fixed 7) m
  | .asra => .fixed 2
  | .asrb => .fixed 2
  | .bcc _ => .fixed 3
  | .bclr m _ => memCycles (.fixed 6) .noLine (.fixed 7) (.fixed 8) m
  | .bcs _ => .fixed 3
  | .beq _ => .fixed 3
  | .bge _ => .fixed 3
  | .bgt _ => .fixed 3
  | .bhi _ => .fixed 3
  | .bhs _ => .fixed 3
  | .bita o => src8Cycles 2 3 4 4 5 o
  | .bitb o => src8Cycles 2 3 4 4 5 o
  | .ble _ => .fixed 3
  | .blo _ => .fixed 3
  | .bls _ => .fixed 3
  | .blt _ => .fixed 3
  | .bmi _ => .fixed 3
  | .bne _ => .fixed 3
  | .bpl _ => .fixed 3
  | .bra _ => .fixed 3
  | .brclr m _ _ => memCycles (.fixed 6) .noLine (.fixed 7) (.fixed 8) m
  | .brn _ => .fixed 3
  | .brset m _ _ => memCycles (.fixed 6) .noLine (.fixed 7) (.fixed 8) m
  | .bset m _ => memCycles (.fixed 6) .noLine (.fixed 7) (.fixed 8) m
  | .bsr _ => .fixed 6
  | .bvc _ => .fixed 3
  | .bvs _ => .fixed 3
  | .cba => .fixed 2
  | .clc => .fixed 2
  | .cli => .fixed 2
  | .clr m => memCycles .noLine (.fixed 6) (.fixed 6) (.fixed 7) m
  | .clra => .fixed 2
  | .clrb => .fixed 2
  | .clv => .fixed 2
  | .cmpa o => src8Cycles 2 3 4 4 5 o
  | .cmpb o => src8Cycles 2 3 4 4 5 o
  | .com m => memCycles .noLine (.fixed 6) (.fixed 6) (.fixed 7) m
  | .coma => .fixed 2
  | .comb => .fixed 2
  | .cpd o => src16Cycles 5 6 7 7 7 o
  | .cpx o => src16Cycles 4 5 6 6 7 o
  | .cpy o => src16Cycles 5 6 7 7 7 o
  | .daa => .fixed 2
  | .dec m => memCycles .noLine (.fixed 6) (.fixed 6) (.fixed 7) m
  | .deca => .fixed 2
  | .decb => .fixed 2
  | .des => .fixed 3
  | .dex => .fixed 3
  | .dey => .fixed 4
  | .eora o => src8Cycles 2 3 4 4 5 o
  | .eorb o => src8Cycles 2 3 4 4 5 o
  | .fdiv => .fixed 41
  | .idiv => .fixed 41
  | .inc m => memCycles .noLine (.fixed 6) (.fixed 6) (.fixed 7) m
  | .inca => .fixed 2
  | .incb => .fixed 2
  | .ins => .fixed 3
  | .inx => .fixed 3
  | .iny => .fixed 4
  | .jmp m => memCycles .noLine (.fixed 3) (.fixed 3) (.fixed 4) m
  | .jsr m => memCycles (.fixed 5) (.fixed 6) (.fixed 6) (.fixed 7) m
  | .ldaa o => src8Cycles 2 3 4 4 5 o
  | .ldab o => src8Cycles 2 3 4 4 5 o
  | .ldd o => src16Cycles 3 4 5 5 6 o
  | .lds o => src16Cycles 3 4 5 5 6 o
  | .ldx o => src16Cycles 3 4 5 5 6 o
  | .ldy o => src16Cycles 4 5 6 6 6 o
  | .lsl m => memCycles .noLine (.fixed 6) (.fixed 6) (.fixed 7) m
  | .lsla => .fixed 2
  | .lslb => .fixed 2
  | .lsld => .fixed 3
  | .lsr m => memCycles .noLine (.fixed 6) (.fixed 6) (.fixed 7) m
  | .lsra => .fixed 2
  | .lsrb => .fixed 2
  | .lsrd => .fixed 3
  | .mul => .fixed 10
  | .neg m => memCycles .noLine (.fixed 6) (.fixed 6) (.fixed 7) m
  | .nega => .fixed 2
  | .negb => .fixed 2
  | .nop => .fixed 2
  | .oraa o => src8Cycles 2 3 4 4 5 o
  | .orab o => src8Cycles 2 3 4 4 5 o
  | .psha => .fixed 3
  | .pshb => .fixed 3
  | .pshx => .fixed 4
  | .pshy => .fixed 5
  | .pula => .fixed 4
  | .pulb => .fixed 4
  | .pulx => .fixed 5
  | .puly => .fixed 6
  | .rol m => memCycles .noLine (.fixed 6) (.fixed 6) (.fixed 7) m
  | .rola => .fixed 2
  | .rolb => .fixed 2
  | .ror m => memCycles .noLine (.fixed 6) (.fixed 6) (.fixed 7) m
  | .rora => .fixed 2
  | .rorb => .fixed 2
  | .rti => .fixed 12
  | .rts => .fixed 5
  | .sba => .fixed 2
  | .sbca o => src8Cycles 2 3 4 4 5 o
  | .sbcb o => src8Cycles 2 3 4 4 5 o
  | .sec => .fixed 2
  | .sei => .fixed 2
  | .sev => .fixed 2
  | .staa m => memCycles (.fixed 3) (.fixed 4) (.fixed 4) (.fixed 5) m
  | .stab m => memCycles (.fixed 3) (.fixed 4) (.fixed 4) (.fixed 5) m
  | .std m => memCycles (.fixed 4) (.fixed 5) (.fixed 5) (.fixed 6) m
  | .stop => .fixed 2
  | .sts m => memCycles (.fixed 4) (.fixed 5) (.fixed 5) (.fixed 6) m
  | .stx m => memCycles (.fixed 4) (.fixed 5) (.fixed 5) (.fixed 6) m
  | .sty m => memCycles (.fixed 5) (.fixed 6) (.fixed 6) (.fixed 6) m
  | .suba o => src8Cycles 2 3 4 4 5 o
  | .subb o => src8Cycles 2 3 4 4 5 o
  | .subd o => src16Cycles 4 5 6 6 7 o
  | .swi => .fixed 14
  | .tab => .fixed 2
  | .tap => .fixed 2
  | .tba => .fixed 2
  | .test => .untilReset
  | .tpa => .fixed 2
  | .tst m => memCycles .noLine (.fixed 6) (.fixed 6) (.fixed 7) m
  | .tsta => .fixed 2
  | .tstb => .fixed 2
  | .tsx => .fixed 3
  | .tsy => .fixed 4
  | .txs => .fixed 3
  | .tys => .fixed 4
  | .wai => .waits 12 2
  | .xgdx => .fixed 3
  | .xgdy => .fixed 4

end Sys2Proof.Machine
end

