-- ==== Sys2Proof/Safety.lean ====
section
/-! DEFINITION. What counts as a sound state of the machine, and the terms in which the statements about it
are made. Nothing here is called by the machine. -/

namespace Sys2Proof.Machine

/-! ### The invariant -/

/-- What every step keeps, whatever the state it starts from: memory is in its canonical form; the hold-off
bit stands only while the CPU is running with I clear and the parameter I_CLEAR_DELAY true (R514); the CPU is
stopped only with S clear (R383), and locked only in a test mode (R394). -/
structure State.Inv (s : State) : Prop where
  memory : Memory.wf s.mem = true
  delay : s.iDelay = true → s.ccr.i = false ∧ s.run = .running ∧ s.config.iClearDelay = true
  stopped : s.run = .stopped → s.ccr.s = false
  locked : s.run = .testLock → s.config.testMode = true

/-! ### The terms of the statements: requests -/

/-- Some request of the class is pending at the coming boundary. -/
def State.Pending (s : State) (cls : RequestClass) : Prop := ∃ r ∈ s.requests, r.cls = cls

/-- The coming step executes an instruction: no reset request, the CPU running, and no request that the
masks allow (R510, R512 to R514). -/
def State.Quiet (s : State) : Prop :=
  ¬ s.Pending .reset ∧ s.run = .running ∧ (s.ccr.x = true ∨ ¬ s.Pending .xirq) ∧
    (s.ccr.i = true ∨ s.iDelay = true ∨ ¬ s.Pending .maskable)

/-! ### The terms of the statements: memory -/

/-- The address is plain storage. -/
def State.IsStorage (s : State) (a : Word) : Prop := s.kindAt a = .storage

/-- The address is no device's: an access to it has no effect but that on the byte there. -/
def State.IsPlain (s : State) (a : Word) : Prop := s.kindAt a ≠ .device

/-- The devices have acted: their state, and the bytes of memory that they store (R62). -/
def Acts (s t : State) (d : DeviceAct) : Prop :=
  t.devices = d.state ∧ t.mem = deviceStores s.config.platform s.mem d.stores

/-- What a store of one byte makes of the cells (R62, R67). At a device, its write function acts. Elsewhere the
devices are as before, and the only byte that may read differently is the one at `a`, which reads `v` if it
is storage; the reads of an absent cell are those of the same draw. -/
def StoresByte (s t : State) (a : Word) (v : Byte) : Prop :=
  (s.kindAt a = .device → Acts s t (Config.deviceWrite s.devices a v)) ∧
  (s.IsPlain a → t.devices = s.devices ∧
    ∀ x : Word, t.readByte x = if x = a ∧ s.kindAt a = .storage then v else s.readByte x)

/-- The same of several stores, the first of the list first (R59). -/
def StoresAll : List (Word × Byte) → State → State → Prop
  | [], s, t => t.mem = s.mem ∧ t.devices = s.devices
  | (a, v) :: rest, s, t =>
    ∃ u, u = { s with mem := u.mem, devices := u.devices } ∧ StoresByte s u a v ∧ StoresAll rest u t

/-- Where neither of two neighbouring cells is a device's: the two bytes of a word, the high byte at `a`,
and nothing else (R63). -/
def HoldsWord (s t : State) (a v : Word) : Prop :=
  s.IsPlain a → s.IsPlain (a + 1) → t.devices = s.devices ∧ ∀ x : Word, t.readByte x =
    if x = a ∧ s.kindAt a = .storage then highByte v
    else if x = a + 1 ∧ s.kindAt (a + 1) = .storage then lowByte v
    else s.readByte x

/-- What a store of two bytes at `a` and `a + 1` makes of the cells, the high byte first (R63). -/
def StoresWord (s t : State) (a v : Word) : Prop :=
  StoresAll [(a, highByte v), (a + 1, lowByte v)] s t ∧ HoldsWord s t a v

/-- What a push of two bytes at SP and below makes of the cells, the low byte first (R132). -/
def PushesWord (s t : State) (v : Word) : Prop :=
  StoresAll [(s.sp, lowByte v), (s.sp - 1, highByte v)] s t ∧ HoldsWord s t (s.sp - 1) v

/-- The byte that the table of R505 gives for the address `k` above the new SP, `k` from 1 to 9. -/
def frameByte (s : State) (returnPc : Word) : Nat → Byte
  | 1 => s.ccr.toByte
  | 2 => s.b
  | 3 => s.a
  | 4 => highByte s.ix
  | 5 => lowByte s.ix
  | 6 => highByte s.iy
  | 7 => lowByte s.iy
  | 8 => highByte returnPc
  | _ => lowByte returnPc

/-- The address `k` above SP (modulo 2^16). -/
def State.above (s : State) (k : Nat) : Word := s.sp + BitVec.ofNat 16 k

/-- The nine stores of R505 from the old SP downward: the ninth byte of the table first. -/
def frameStores (s : State) (returnPc : Word) : List (Word × Byte) :=
  (List.range 9).map fun k => (s.sp - BitVec.ofNat 16 k, frameByte s returnPc (9 - k))

/-- `t` has the nine-byte frame of `s` on its stack (R505): SP is nine lower and the nine stores have been made;
so, where no device stands in the frame, each of the nine cells that is storage holds its byte of the table,
and every other address reads as before. -/
structure StacksFrame (s t : State) (returnPc : Word) : Prop where
  pointer : t.sp = s.sp - 9
  stores : StoresAll (frameStores s returnPc) s t
  cells : (∀ k : Nat, 1 ≤ k → k ≤ 9 → s.IsPlain (t.above k)) →
    t.devices = s.devices ∧
    (∀ k : Nat, 1 ≤ k → k ≤ 9 → s.IsStorage (t.above k) →
      t.readByte (t.above k) = frameByte s returnPc k) ∧
    ∀ x : Word, (∀ k : Nat, 1 ≤ k → k ≤ 9 → x = t.above k → ¬ s.IsStorage x) →
      t.readByte x = s.readByte x

/-- `t` is what an entry with stacking makes of `s` (R506): the frame; then the vector cell is read and is the
PC; I set, X set for an xirq; `i_delay` clear; RUNNING; nothing else changed. -/
def Enters (s t : State) (vector returnPc : Word) (setX : Bool) : Prop :=
  ∃ u, StacksFrame s u returnPc ∧
    u = { s with sp := s.sp - 9, mem := u.mem, devices := u.devices } ∧
    t = { u.readingWord vector with
      ccr := { s.ccr with i := true, x := setX || s.ccr.x }
      iDelay := false
      pc := u.readWord vector
      run := .running }

/-- The byte that the `k`-th of a series of pulls gives (R131), the bytes below it read before. -/
def State.pulled (s : State) (k : Nat) : Byte :=
  (s.readings (addressesFrom (s.sp + 1) (k - 1))).readByte (s.above k)

/-! ### The terms of the statements: flags and results -/

/-- N and Z as the signed and the unsigned value of a result show them, with V and C given. -/
def CCR.signs {w : Nat} (f : CCR) (r : BitVec w) (v c : Bool) : CCR :=
  { f with n := decide (r.toInt < 0), z := decide (r.toNat = 0), v := v, c := c }

/-- The flags of a shift: V is the exclusive or of the new N and the new C (R139). -/
def CCR.shiftSigns {w : Nat} (f : CCR) (r : BitVec w) (c : Bool) : CCR :=
  f.signs r (decide (r.toInt < 0) ^^ c) c

/-- A carry as a number. -/
def carryNat (c : Bool) : Nat := if c then 1 else 0

/-- The vendor's Boolean form of a carry out of a bit position (R135): `a·m + m·~r + ~r·a`. -/
def carryForm (a m r : Bool) : Bool := (a && m) || (m && !r) || (!r && a)

/-- The vendor's Boolean form of the overflow of an addition (R135): `a·m·~r + ~a·~m·r`. -/
def addOverflowForm (a m r : Bool) : Bool := (a && m && !r) || (!a && !m && r)

/-- The vendor's Boolean form of a borrow (R136): `~a·m + m·r + r·~a`. -/
def borrowForm (a m r : Bool) : Bool := (!a && m) || (m && r) || (r && !a)

/-- The vendor's Boolean form of the overflow of a subtraction (R136): `a·~m·~r + ~a·m·r`. -/
def subOverflowForm (a m r : Bool) : Bool := (a && !m && !r) || (!a && m && r)

/-- How a result and the flags after an operation on `x` depend on `x` and the flags before it. -/
abbrev Effect := Byte → CCR → Byte → CCR → Prop

/-- An 8-bit addition (R135): the sum modulo 256, the flags in the vendor's Boolean form. -/
def AddsByte (m : Byte) (cin : Bool) : Effect := fun a f r g =>
  r.toNat = (a.toNat + m.toNat + carryNat cin) % 256 ∧
  g = { f.signs r (addOverflowForm (a.getLsbD 7) (m.getLsbD 7) (r.getLsbD 7))
          (carryForm (a.getLsbD 7) (m.getLsbD 7) (r.getLsbD 7)) with
        h := carryForm (a.getLsbD 3) (m.getLsbD 3) (r.getLsbD 3) }

/-- An 8-bit subtraction (R136): the difference modulo 256, the flags in the vendor's Boolean form. -/
def SubtractsByte (m : Byte) (bin : Bool) : Effect := fun a f r g =>
  (r.toNat + m.toNat + carryNat bin) % 256 = a.toNat ∧
  g = f.signs r (subOverflowForm (a.getLsbD 7) (m.getLsbD 7) (r.getLsbD 7))
        (borrowForm (a.getLsbD 7) (m.getLsbD 7) (r.getLsbD 7))

/-- A 16-bit addition (R137), overflow told by the signed sum not fitting. -/
def AddsWord (a m : Word) (f : CCR) (r : Word) (g : CCR) : Prop :=
  r.toNat = (a.toNat + m.toNat) % 65536 ∧
  g = f.signs r (decide (r.toInt ≠ a.toInt + m.toInt)) (decide (65536 ≤ a.toNat + m.toNat))

/-- A 16-bit subtraction (R138), overflow told by the signed difference not fitting. -/
def SubtractsWord (a m : Word) (f : CCR) (r : Word) (g : CCR) : Prop :=
  (r.toNat + m.toNat) % 65536 = a.toNat ∧
  g = f.signs r (decide (r.toInt ≠ a.toInt - m.toInt)) (decide (a.toNat < m.toNat))

/-- INC (R297): V tells that the signed sum does not fit; C is kept. -/
def Increments : Effect := fun x f r g =>
  r.toNat = (x.toNat + 1) % 256 ∧ g = f.signs r (decide (r.toInt ≠ x.toInt + 1)) f.c

/-- DEC (R277): V tells that the signed difference does not fit; C is kept. -/
def Decrements : Effect := fun x f r g =>
  (r.toNat + 1) % 256 = x.toNat ∧ g = f.signs r (decide (r.toInt ≠ x.toInt - 1)) f.c

/-- NEG (R332): V tells that the signed negation does not fit, C that the byte is not zero. -/
def Negates : Effect := fun x f r g =>
  (r.toNat + x.toNat) % 256 = 0 ∧
  g = f.signs r (decide (r.toInt ≠ -x.toInt)) (decide (x.toNat ≠ 0))

/-- COM (R270): `$FF - x`; V clear, C set. -/
def Complements : Effect := fun x f r g => r.toNat = 255 - x.toNat ∧ g = f.signs r false true

/-- CLR (R264): zero, and N Z V C = 0 1 0 0. -/
def Clears : Effect := fun _ f r g =>
  r = 0 ∧ g = { f with n := false, z := true, v := false, c := false }

/-- ASL (R139): twice the byte, C its top bit. -/
def ShiftsLeft : Effect := fun x f r g =>
  r.toNat = 2 * x.toNat % 256 ∧ g = f.shiftSigns r (decide (128 ≤ x.toNat))

/-- ASR (R139): half the signed byte rounded down, C its bit 0. -/
def HalvesSigned : Effect := fun x f r g =>
  r.toInt = x.toInt / 2 ∧ g = f.shiftSigns r (decide (x.toNat % 2 = 1))

/-- LSR (R139): half the unsigned byte, C its bit 0. -/
def HalvesUnsigned : Effect := fun x f r g =>
  r.toNat = x.toNat / 2 ∧ g = f.shiftSigns r (decide (x.toNat % 2 = 1))

/-- ROL (R139): the nine bits C and byte go round to the left. -/
def RotatesLeft : Effect := fun x f r g =>
  r.toNat = (2 * x.toNat + carryNat f.c) % 256 ∧ g = f.shiftSigns r (decide (128 ≤ x.toNat))

/-- ROR (R139): the nine bits C and byte go round to the right. -/
def RotatesRight : Effect := fun x f r g =>
  r.toNat = x.toNat / 2 + 128 * carryNat f.c ∧ g = f.shiftSigns r (decide (x.toNat % 2 = 1))

/-! ### The terms of the statements: what an instruction acts on

In these, `u` is the state once the instruction has read its operand: `s` itself, unless a device stands at
the address read. -/

/-- The instruction answers a next state, in which A and the flags are as the effect says and nothing else
is changed. -/
def ActsOnA (i : Instr) (s u : State) (e : Effect) : Prop :=
  ∃ r g, exec i s = .next { u with a := r, ccr := g } ∧ e s.a s.ccr r g

/-- The same of B. -/
def ActsOnB (i : Instr) (s u : State) (e : Effect) : Prop :=
  ∃ r g, exec i s = .next { u with b := r, ccr := g } ∧ e s.b s.ccr r g

/-- The same of the byte in memory at the effective address, which is read and then written: no register but
the flags changes, and no other byte of memory. -/
def ActsOnMemory (i : Instr) (m : Mem) (s : State) (e : Effect) : Prop :=
  ∃ r g t, exec i s = .next t ∧ e (s.readByte (s.ea m)) s.ccr r g ∧
    StoresByte (s.reading (s.ea m)) t (s.ea m) r ∧
    t = { s with ccr := g, mem := t.mem, devices := t.devices }

/-- The instruction answers a next state that differs from `u` in the flags alone, which are those of the
effect on `x`. -/
def ActsOnFlags (i : Instr) (s u : State) (x : Byte) (e : Effect) : Prop :=
  ∃ r g, exec i s = .next { u with ccr := g } ∧ e x s.ccr r g

/-- The machine code of an instruction without operands, and its count of cycles: the decoder reads it, the
encoder writes it, the table of its rule prints both. -/
def Coded (i : Instr) (code : List Byte) (cycles : Nat) : Prop :=
  encode i = code ∧ (∀ rest, decode (code ++ rest) = .ok ⟨i, code.length⟩) ∧ cyclesOf i = .fixed cycles

/-- The address that a branch from `s` with the offset `rr` goes to (R127). -/
def State.branchTarget (s : State) (rr : Byte) : Word := BitVec.ofInt 16 (s.pc.toNat + rr.toInt)

/-- The instruction is a conditional branch that is taken exactly when `taken` holds: nothing but PC
changes. -/
def Branches (i : Instr) (rr : Byte) (s u : State) (taken : Prop) : Prop :=
  (taken → exec i s = .next { u with pc := s.branchTarget rr }) ∧ (¬ taken → exec i s = .next u)

end Sys2Proof.Machine
end

