-- ==== Sys2Proof/Certificates/Slice0/Obligations.lean ====
section
/-! DEFINITION. The statements for the provers. Their terms are defined in Sys2Proof/Safety.lean. A docstring
names the rules a statement formalises and, where the spec marks one of them as its own decision or as general
knowledge, or where the model chose, says so. -/

open Sys2Proof Sys2Proof.Machine


/-- Decoding the encoding of a well-formed instruction gives that instruction. The encoder is written from the
encoding tables of files 41 to 48, the decoder from the opcode maps, which the spec marks [derived]; the
byte order of a code is decision D3. That the decoder answers the first-listed name is log 16. -/
def Obligations.EncodedInstructionDecodesToItself : Prop :=
  ∀ (i : Instr) (rest : List Byte), i.wf = true →
    decode (encode i ++ rest) = .ok ⟨i.canonical, (encode i).length⟩

/-- Whatever the decoder accepts is the encoding of the well-formed instruction it answers. The other direction
of the round trip: each code has one meaning and no code is accepted that no encoding table prints. -/
def Obligations.DecodedBytesAreTheEncodingOfTheirInstruction : Prop :=
  ∀ (bytes : List Byte) (d : Decoded), decode bytes = .ok d →
    d.instr.wf = true ∧ d.instr.canonical = d.instr ∧
      d.length = (encode d.instr).length ∧ bytes.take d.length = encode d.instr

/-- Exactly the unassigned codes of the opcode maps are rejected, by name. The lists are those of the rules R89
and R86 to R88, which the spec marks [derived] from the table lines. That TEST (00) is decoded in every
mode, its mode being looked at by its meaning, is log 13. -/
def Obligations.UnassignedCodesAreRejected : Prop :=
  ∀ (b0 b1 : Byte) (rest : List Byte),
    (decode (b0 :: rest) = .error (.unassigned b0) ↔
      b0 ∈ ([0x41, 0x42, 0x45, 0x4B, 0x4E, 0x51, 0x52, 0x55, 0x5B, 0x5E, 0x61, 0x62, 0x65, 0x6B, 0x71,
        0x72, 0x75, 0x7B, 0x87, 0xC7] : List Byte)) ∧
    (decode (0x18 :: b1 :: rest) = .error (.unassignedAfter 0x18 b1) ↔
      b1 ∉ ([0x08, 0x09, 0x1C, 0x1D, 0x1E, 0x1F, 0x30, 0x35, 0x38, 0x3A, 0x3C, 0x60, 0x63, 0x64, 0x66,
        0x67, 0x68, 0x69, 0x6A, 0x6C, 0x6D, 0x6E, 0x6F, 0x8C, 0x8F, 0x9C, 0xA0, 0xA1, 0xA2, 0xA3, 0xA4,
        0xA5, 0xA6, 0xA7, 0xA8, 0xA9, 0xAA, 0xAB, 0xAC, 0xAD, 0xAE, 0xAF, 0xBC, 0xCE, 0xDE, 0xDF, 0xE0,
        0xE1, 0xE2, 0xE3, 0xE4, 0xE5, 0xE6, 0xE7, 0xE8, 0xE9, 0xEA, 0xEB, 0xEC, 0xED, 0xEE, 0xEF, 0xFE,
        0xFF] : List Byte)) ∧
    (decode (0x1A :: b1 :: rest) = .error (.unassignedAfter 0x1A b1) ↔
      b1 ∉ ([0x83, 0x93, 0xA3, 0xAC, 0xB3, 0xEE, 0xEF] : List Byte)) ∧
    (decode (0xCD :: b1 :: rest) = .error (.unassignedAfter 0xCD b1) ↔
      b1 ∉ ([0xA3, 0xAC, 0xEE, 0xEF] : List Byte))

/-- Words written out from the encoding tables decode to their instructions. A sanity check of single codes; the
two round trips say the rest. -/
def Obligations.SampleWordsDecodeAsTheTablesPrintThem : Prop :=
  decode [0x1B] = .ok ⟨.aba, 1⟩ ∧
  decode [0x89, 0x5A] = .ok ⟨.adca (.imm 0x5A), 2⟩ ∧
  decode [0xCE, 0x12, 0x34] = .ok ⟨.ldx (.imm 0x1234), 3⟩ ∧
  decode [0x97, 0x40] = .ok ⟨.staa (.dir 0x40), 2⟩ ∧
  decode [0x7E, 0xC0, 0x01] = .ok ⟨.jmp (.ext 0xC001), 3⟩ ∧
  decode [0x6A, 0x05] = .ok ⟨.dec (.indX 0x05), 2⟩ ∧
  decode [0x26, 0xFD] = .ok ⟨.bne 0xFD, 2⟩ ∧
  decode [0x18, 0x1E, 0x07, 0x80, 0xFB] = .ok ⟨.brset (.indY 0x07) 0x80 0xFB, 5⟩ ∧
  decode [0x1A, 0xAC, 0x02] = .ok ⟨.cpy (.mem (.indX 0x02)), 3⟩ ∧
  decode [0xCD, 0xEE, 0x09] = .ok ⟨.ldx (.mem (.indY 0x09)), 3⟩ ∧
  decode [0x14, 0x20, 0x0F] = .ok ⟨.bset (.dir 0x20) 0x0F, 3⟩ ∧
  decode [0x1C, 0x02, 0x81] = .ok ⟨.bset (.indX 0x02) 0x81, 3⟩ ∧
  decode [0x18, 0x1D, 0x00, 0x7F] = .ok ⟨.bclr (.indY 0x00) 0x7F, 4⟩ ∧
  decode [0x13, 0x40, 0x81, 0x10] = .ok ⟨.brclr (.dir 0x40) 0x81 0x10, 4⟩ ∧
  decode [0x1E, 0x02, 0x80, 0xFB] = .ok ⟨.brset (.indX 0x02) 0x80 0xFB, 4⟩

/-- Every well-formed instruction is encoded in one to five bytes. The first sentence of R80, for the encoder;
the family Laws.EncodingLength has it per instruction. -/
def Obligations.EncodingsHaveOneToFiveBytes : Prop :=
  ∀ i : Instr, i.wf = true → 1 ≤ (encode i).length ∧ (encode i).length ≤ 5

/-- Effective addresses: DIR zero-extends dd, EXT takes hh : ll, the indexed modes add an unsigned offset and
wrap. R124 and R125 whole. The clauses on the indexed modes are R126, their wrap modulo 65536 is R54, the
spec's decision D4. Reading the operand has the side effect, if any, of reading a device, log 10. -/
def Obligations.EffectiveAddressesOfTheMemoryModes : Prop :=
  ∀ (s : State) (dd hh ll ff : Byte) (rest : List Byte),
    (∃ m : Mem, decode (0x97 :: dd :: rest) = .ok ⟨.staa m, 2⟩ ∧ (s.ea m).toNat = dd.toNat) ∧
    (∃ m : Mem, decode (0xB7 :: hh :: ll :: rest) = .ok ⟨.staa m, 3⟩ ∧
      (s.ea m).toNat = 256 * hh.toNat + ll.toNat) ∧
    (s.ea (.indX ff)).toNat = (s.ix.toNat + ff.toNat) % 65536 ∧
    (s.ea (.indY ff)).toNat = (s.iy.toNat + ff.toNat) % 65536 ∧
    (∃ f, exec (.ldx (.mem (.indX ff))) s =
      .next { s.readingWord (s.ix + ff.setWidth 16) with
        ix := s.readWord (s.ix + ff.setWidth 16), ccr := f }) ∧
    (∃ f, exec (.ldy (.mem (.indY ff))) s =
      .next { s.readingWord (s.iy + ff.setWidth 16) with
        iy := s.readWord (s.iy + ff.setWidth 16), ccr := f })

/-- A word stored by STD is A at the address and B at the next, and is read back by a 16-bit load. The end of
R51 and R63. That the address wraps is the spec's decision D4, that the lower address is written first
decision D6. -/
def Obligations.WordsInMemoryAreBigEndian : Prop :=
  ∀ (s : State) (a : Word), s.IsStorage a → s.IsStorage (a + 1) →
    ∃ t u v w, exec (.std (.ext a)) s = .next t ∧
      exec (.ldaa (.mem (.ext a))) t = .next u ∧ u.a = s.a ∧
      exec (.ldab (.mem (.ext (a + 1)))) t = .next v ∧ v.b = s.b ∧
      exec (.ldx (.mem (.ext a))) t = .next w ∧
      w.ix.toNat = 256 * s.a.toNat + s.b.toNat

/-- A byte stored is the byte that the next fetch and the next load see, and a device cell is its platform's
functions. R62, R64 (decision D10 of the spec) and R67. That a dropped write is what a read-only or absent
cell does is log 11; that the devices are uninterpreted functions of one state is log 10. -/
def Obligations.AccessesReachWhatStandsBehindTheAddress : Prop :=
  ∀ (s : State) (m : Mem),
    (∃ t, exec (.staa m) s = .next t ∧
      (s.IsStorage (s.ea m) → t.fetchByte (s.ea m) = s.a ∧ t.readByte (s.ea m) = s.a) ∧
      (s.IsPlain (s.ea m) → t.devices = s.devices ∧
        ∀ x : Word, x ≠ s.ea m ∨ ¬ s.IsStorage (s.ea m) → t.fetchByte x = s.fetchByte x) ∧
      (s.kindAt (s.ea m) = .device → Acts s t (Config.deviceWrite s.devices (s.ea m) s.a))) ∧
    (∃ t, exec (.ldaa (.mem m)) s = .next t ∧
      (s.kindAt (s.ea m) = .storage ∨ s.kindAt (s.ea m) = .readOnly →
        t.a = Memory.read s.mem (s.ea m).toNat) ∧
      (s.kindAt (s.ea m) = .absent → t.a = Config.absentByte s.draws (s.ea m)) ∧
      (s.IsPlain (s.ea m) → t.mem = s.mem ∧ t.devices = s.devices) ∧
      (s.kindAt (s.ea m) = .device →
        t.a = (Config.deviceRead s.devices (s.ea m)).value ∧
        Acts s t (Config.deviceRead s.devices (s.ea m)).act)) ∧
    ∀ a : Word,
      s.reading a = { s with mem := (s.reading a).mem, devices := (s.reading a).devices } ∧
      (s.IsPlain a → s.reading a = s) ∧
      (s.kindAt a = .device → Acts s (s.reading a) (Config.deviceRead s.devices a).act)

/-- A step in which no request is taken runs the instruction that the bytes at PC decode to. R64, R120 (the
spec's decision D3) and R510. What asking changes is StepKeepsParametersAndTestLock; the oracle is log 5,
the draw counter log 6, the devices log 10, that only the instruction's own bytes are read log 20; that the
hold-off bit is cleared before the instruction and not after it is log 14. -/
def Obligations.StepRunsTheDecodedInstruction : Prop :=
  ∀ (s : State) (d : Decoded), s.Quiet → decode s.asked.fetchBytes = .ok d →
    d.instr.wf = true ∧
    step s = exec d.instr { s.asked.fetched d.length with
      pc := s.pc + BitVec.ofNat 16 d.length
      iDelay := false } ∧
    ((∀ k < d.length, s.IsPlain (s.pc + BitVec.ofNat 16 k)) → s.asked.fetched d.length = s.asked)

/-- Every step of the machine, from every state, answers a next state. R62 (no access faults), R120 (no
instruction faults part-way) and R521 (the exceptions that do not exist) say that nothing faults; that
nothing is refused they do not say. It rests on the model's choices where the spec also allows a refusal or
a fault: DAA outside its table is a draw, log 7 (U5); a read of an absent cell is a draw and a write to an
absent or a read-only cell is dropped, log 11 (U10); a register that nothing has written since reset holds a
value and its read is no fault, logs 2 and 9 (U8); an unassigned code traps (U1, decision D11 of the spec),
an access that wraps is made (U17, decision D4) and STOPPED is not the end of the run (decision D20), log
22. -/
def Obligations.EveryStepAnswersANextState : Prop :=
  ∀ s : State, ∃ t, step s = .next t

/-- The machine right after reset meets the invariant. The invariant is State.Inv of Sys2Proof/Safety.lean. -/
def Obligations.ResetMeetsTheInvariant : Prop :=
  State.reset.Inv

/-- Every step keeps memory canonical, the hold-off bit, STOPPED and TESTLOCK consistent. The canonical form is
the model's own; the rest follows R39, R383, R394, R514 and R519. -/
def Obligations.EveryStepKeepsTheInvariant : Prop :=
  ∀ s t : State, s.Inv → step s = .next t → t.Inv

/-- State.reset has S, X and I set, is running without hold-off, and PC holds the word of the reset vector. R40
and R551 (the spec's decision D21); the other registers are log 2. -/
def Obligations.ResetStateIsAsTheSpecSays : Prop :=
  State.reset.pc = State.reset.readWord 0xFFFE ∧ State.reset.ccr.s = true ∧ State.reset.ccr.x = true ∧
    State.reset.ccr.i = true ∧ State.reset.run = .running ∧ State.reset.iDelay = false ∧
    State.reset.config = Config.standard ∧ Config.standard.vectorsOk = true

/-- No instruction sets X: it rises only in a step that takes an xirq or a reset request. R29 and R512 (decision
D17 of the spec): "Bit can be cleared, cannot become set". -/
def Obligations.XIsSetOnlyByXirqOrReset : Prop :=
  ∀ s t : State, step s = .next t → s.ccr.x = false → t.ccr.x = true →
    s.Pending .reset ∨ (s.Pending .xirq ∧ ¬ s.Quiet)

/-- S changes only by TAP, RTI or reset; I is cleared only by CLI, TAP or RTI. R28, R31, R513. -/
def Obligations.MasksAreChangedOnlyByTheirWriters : Prop :=
  ∀ s t : State, step s = .next t →
    (t.ccr.s ≠ s.ccr.s → s.Pending .reset ∨
      (s.Quiet ∧ ∃ d, decode s.asked.fetchBytes = .ok d ∧ (d.instr = .tap ∨ d.instr = .rti))) ∧
    (s.ccr.i = true → t.ccr.i = false →
      s.Quiet ∧ ∃ d, decode s.asked.fetchBytes = .ok d ∧
        (d.instr = .cli ∨ d.instr = .tap ∨ d.instr = .rti))

/-- H is changed by no instruction but the five 8-bit additions, TAP and RTI. R30; that DAA keeps H is R276. How
the seven change H is said by EightBitAdditions, TransfersOfTheConditionCodes and RtiPullsTheFrame. -/
def Obligations.NoOtherInstructionChangesTheHalfCarry : Prop :=
  ∀ (i : Instr) (s t : State), exec i s = .next t →
    match i with
    | .aba | .adca _ | .adcb _ | .adda _ | .addb _ | .tap | .rti => True
    | _ => t.ccr.h = s.ccr.h

/-- Memory is changed only by the instructions that the table of access widths lists as writing, or by a device
that is read. The table of R53; the trap of TEST outside a test mode is R394. A read of a device has the
effect that the platform says (R62, log 10). -/
def Obligations.OnlyStoringInstructionsChangeMemory : Prop :=
  ∀ (i : Instr) (s t : State), exec i s = .next t →
    match i with
    | .staa _ | .stab _ | .std _ | .sts _ | .stx _ | .sty _ | .clr _ | .asl _ | .lsl _ | .asr _
    | .lsr _ | .rol _ | .ror _ | .com _ | .dec _ | .inc _ | .neg _ | .bclr _ _ | .bset _ _ | .psha
    | .pshb | .pshx | .pshy | .bsr _ | .jsr _ | .swi | .wai | .test => True
    | .adca _ | .adcb _ | .adda _ | .addb _ | .addd _ | .anda _ | .andb _ | .bita _ | .bitb _ | .cmpa _
    | .cmpb _ | .cpd _ | .cpx _ | .cpy _ | .eora _ | .eorb _ | .ldaa _ | .ldab _ | .ldd _ | .lds _
    | .ldx _ | .ldy _ | .oraa _ | .orab _ | .sbca _ | .sbcb _ | .suba _ | .subb _ | .subd _ | .tst _
    | .brset _ _ _ | .brclr _ _ _ | .pula | .pulb | .pulx | .puly | .rts | .rti =>
      (∀ a : Word, s.IsPlain a) → t.mem = s.mem ∧ t.devices = s.devices
    | _ => t.mem = s.mem ∧ t.devices = s.devices

/-- SP is changed only by the instructions that name it or use the stack. The last sentences of R25. -/
def Obligations.OnlyStackInstructionsMoveTheStackPointer : Prop :=
  ∀ (i : Instr) (s t : State), exec i s = .next t →
    match i with
    | .des | .ins | .lds _ | .txs | .tys | .psha | .pshb | .pshx | .pshy | .pula | .pulb | .pulx
    | .puly | .bsr _ | .jsr _ | .rts | .rti | .swi | .wai | .test => True
    | _ => t.sp = s.sp

/-- No step changes a parameter, every step uses one answer of the oracle, and only reset leaves TESTLOCK. R7,
R59 (decision D9 of the spec), R519 (decision D20 of the spec), where the clocks of the peripherals are
stopped, and R520. The parameters, the oracle and the draw counter in State are the model's choices, logs 4,
5 and 6; the devices are log 10. -/
def Obligations.StepKeepsParametersAndTestLock : Prop :=
  ∀ s : State,
    (∀ t : State, step s = .next t →
      t.config = s.config ∧ t.oracle = s.oracle.next ∧ t.draws = s.draws + 1 ∧
      (s.run = .testLock → ¬ s.Pending .reset → t = s.asked)) ∧
    ((s.config.hasDevices = false ∨ s.run = .stopped) →
      s.asked = { s with oracle := s.oracle.next, draws := s.draws + 1 }) ∧
    (s.config.hasDevices = true → s.run ≠ .stopped → Acts s s.asked (Config.deviceTick s.devices) ∧
      s.asked = { s with mem := s.asked.mem, devices := s.asked.devices,
                         oracle := s.oracle.next, draws := s.draws + 1 })

/-- A reset request is taken in every run state before everything else and stacks nothing. R550 and R551
(decision D21 of the spec), R515. What reset leaves unspecified is a free value, log 9; which of several
reset requests is taken is log 18; what the devices do before the boundary, and when one of them holds the
vector, is log 10. -/
def Obligations.ResetRequestIsTakenFirst : Prop :=
  ∀ s : State, s.Pending .reset →
    ∃ r ∈ s.requests, r.cls = .reset ∧ ∃ t, step s = .next t ∧
      t.ccr.s = true ∧ t.ccr.x = true ∧ t.ccr.i = true ∧ t.iDelay = false ∧ t.run = .running ∧
      t.pc = s.asked.readWord r.vector ∧ t.config = s.config ∧
      t.mem = (s.asked.readingWord r.vector).mem ∧ t.devices = (s.asked.readingWord r.vector).devices

/-- With X clear an xirq request is taken, ahead of every maskable one, and sets X and I. R506, R512, R515
(decisions D13, D16 and D17 of the spec). Which of several xirq requests is taken is log 18. -/
def Obligations.XirqIsTakenAheadOfMaskable : Prop :=
  ∀ s : State, ¬ s.Pending .reset → s.run = .running → s.ccr.x = false → s.Pending .xirq →
    ∃ r ∈ s.requests, r.cls = .xirq ∧ ∃ t, step s = .next t ∧
      Enters s.asked t r.vector s.pc true

/-- With I and the hold-off clear the maskable request of the highest vector is taken. R506, R513, R514, R515
(decisions D13, D16 and D18 of the spec). -/
def Obligations.HighestMaskableRequestIsTaken : Prop :=
  ∀ s : State, ¬ s.Pending .reset → s.run = .running → (s.ccr.x = true ∨ ¬ s.Pending .xirq) →
    s.ccr.i = false → s.iDelay = false → s.Pending .maskable →
    ∃ r ∈ s.requests, r.cls = .maskable ∧
      (∀ q ∈ s.requests, q.cls = .maskable → q.vector.toNat ≤ r.vector.toNat) ∧
      ∃ t, step s = .next t ∧ Enters s.asked t r.vector s.pc false

/-- After CLI or TAP has cleared I one more instruction runs; after RTI none need run. R514 (decision D18 of the
spec). -/
def Obligations.ClearingIDefersMaskableRequestsByOneInstruction : Prop :=
  ∀ (s : State) (d : Decoded), s.Quiet → decode s.asked.fetchBytes = .ok d →
    ((d.instr = .cli ∨ (d.instr = .tap ∧ s.a.getLsbD 4 = false)) → s.ccr.i = true →
      ∃ t, step s = .next t ∧ t.ccr.i = false ∧ t.iDelay = s.config.iClearDelay ∧
        (t.iDelay = true → ¬ t.Pending .reset → (t.ccr.x = true ∨ ¬ t.Pending .xirq) →
          step t = t.asked.instruction)) ∧
    (d.instr = .rti → ∃ t, step s = .next t ∧ t.iDelay = false)

/-- A step on an unassigned code is an entry through VEC_ILLOP with the address the parameter says. R507
(decision D11 of the spec). That the bytes of the code alone are read is log 20. -/
def Obligations.UnassignedCodeTakesTheIllegalOpcodeTrap : Prop :=
  ∀ (s : State) (e : DecodeError), s.Quiet → decode s.asked.fetchBytes = .error e →
    ∃ t, step s = .next t ∧
      ∃ k, k = (if isPrefixByte (s.asked.fetchByte s.pc) then 2 else 1) ∧
        Enters (s.asked.fetched k) t s.config.vecIllop
          (match s.config.illegalStackedPc with
            | .opcodeAddress => s.pc
            | .nextAddress => s.pc + BitVec.ofNat 16 k) false

/-- WAITING ends by an allowed request without a second stacking, and a masked request does not end it. R510,
R515 and R518 (decisions D16 and D19 of the spec). The oracle and the draws in State are logs 5 and 6, the
devices log 10; which of several xirq requests is taken is log 18. -/
def Obligations.WaitEndsOnlyByAnAllowedRequest : Prop :=
  ∀ s : State, s.run = .waiting → ¬ s.Pending .reset →
    (s.ccr.x = false → s.Pending .xirq →
      ∃ r ∈ s.requests, r.cls = .xirq ∧ step s = .next { s.asked.readingWord r.vector with
        ccr := { s.ccr with i := true, x := true }, iDelay := false
        pc := s.asked.readWord r.vector, run := .running }) ∧
    ((s.ccr.x = true ∨ ¬ s.Pending .xirq) → s.ccr.i = false → s.iDelay = false → s.Pending .maskable →
      ∃ r ∈ s.requests, r.cls = .maskable ∧
        (∀ q ∈ s.requests, q.cls = .maskable → q.vector.toNat ≤ r.vector.toNat) ∧
        step s = .next { s.asked.readingWord r.vector with
        ccr := { s.ccr with i := true }, iDelay := false
        pc := s.asked.readWord r.vector, run := .running }) ∧
    ((s.ccr.x = true ∨ ¬ s.Pending .xirq) →
      (s.ccr.i = true ∨ s.iDelay = true ∨ ¬ s.Pending .maskable) → step s = .next s.asked)

/-- STOPPED ends by an xirq, which with X set only resumes, or by the IRQ pin with I clear. R519 (decision D20
of the spec). The order of the clauses is log 12, read into R519 by the model: an xirq with X set only
resumes even while the IRQ pin asks with I clear. That a request of the IRQ pin is a maskable one carrying
VEC_IRQ is log 12 too. That no device acts between instructions while STOPPED is R519's stopped clocks and
surviving memory; the oracle and the draw counter in State are logs 5 and 6. -/
def Obligations.StopEndsByXirqOrUnmaskedIrqPin : Prop :=
  ∀ s : State, s.run = .stopped → ¬ s.Pending .reset →
    s.asked = { s with oracle := s.oracle.next, draws := s.draws + 1 } ∧
    (s.Pending .xirq → s.ccr.x = false →
      ∃ t, step s = .next t ∧ Enters s.asked t s.config.vecXirq s.pc true) ∧
    (s.Pending .xirq → s.ccr.x = true → step s = .next { s.asked with run := .running }) ∧
    (¬ s.Pending .xirq → s.ccr.i = false →
      (∃ r ∈ s.requests, r.cls = .maskable ∧ r.vector = s.config.vecIrq) →
      ∃ t, step s = .next t ∧ Enters s.asked t s.config.vecIrq s.pc false) ∧
    (¬ s.Pending .xirq →
      (s.ccr.i = true ∨ ∀ r ∈ s.requests, ¬ (r.cls = .maskable ∧ r.vector = s.config.vecIrq)) →
      step s = .next s.asked)

/-- SWI stacks the nine register bytes, sets I alone and goes to the word of VEC_SWI. R390, R505, R506, R508
(decisions D13 and D15 of the spec). A frame that meets a device is log 10, one that meets a read-only or
absent cell log 11. -/
def Obligations.SwiTakesItsException : Prop :=
  ∀ s : State, ∃ t, exec .swi s = .next t ∧ Enters s t s.config.vecSwi s.pc false

/-- WAI stacks the nine register bytes and waits. R413 (decisions D13 and D19 of the spec). A frame that meets a
device is log 10, one that meets a read-only or absent cell log 11. -/
def Obligations.WaiStacksAndWaits : Prop :=
  ∀ s : State, ∃ t, exec .wai s = .next t ∧ StacksFrame s t s.pc ∧
    t = { s with sp := s.sp - 9, mem := t.mem, devices := t.devices, run := .waiting }

/-- RTI pulls CCR, B, A, IX, IY and PC from the nine bytes above SP, and X can only fall. R140, R364 and R509
(decision D13 of the spec). The side effect of reading a device is log 10. -/
def Obligations.RtiPullsTheFrame : Prop :=
  ∀ s : State, ∃ v t, v = s.readByte (s.sp + 1) ∧ exec .rti s = .next t ∧
    t = { s.readings (addressesFrom (s.sp + 1) 9) with
      ccr := { s := v.getLsbD 7, x := s.ccr.x && v.getLsbD 6, h := v.getLsbD 5, i := v.getLsbD 4,
               n := v.getLsbD 3, z := v.getLsbD 2, v := v.getLsbD 1, c := v.getLsbD 0 }
      b := s.pulled 2
      a := s.pulled 3
      ix := t.ix
      iy := t.iy
      pc := t.pc
      sp := s.sp + 9 } ∧
    t.ix.toNat = 256 * (s.pulled 4).toNat + (s.pulled 5).toNat ∧
    t.iy.toNat = 256 * (s.pulled 6).toNat + (s.pulled 7).toNat ∧
    t.pc.toNat = 256 * (s.pulled 8).toNat + (s.pulled 9).toNat ∧
    ((∀ k : Nat, 1 ≤ k → k ≤ 9 → s.IsPlain (s.above k)) →
      s.readings (addressesFrom (s.sp + 1) 9) = s ∧
      ∀ k : Nat, 1 ≤ k → k ≤ 9 → s.pulled k = s.readByte (s.above k))

/-- RTI straight after any entry with stacking restores every register, flag and SP. R505, R506, R509, R512
(decisions D13 and D17 of the spec): "RTI restores them". -/
def Obligations.RtiUndoesEveryEntry : Prop :=
  ∀ (s t : State) (vector returnPc : Word) (setX : Bool), Enters s t vector returnPc setX →
    (setX = true → s.ccr.x = false) →
    (∀ k : Nat, 1 ≤ k → k ≤ 9 → s.IsStorage (s.sp - 9 + BitVec.ofNat 16 k)) →
    s.IsPlain vector → s.IsPlain (vector + 1) →
    exec .rti t = .next { s with
      pc := returnPc, mem := t.mem, iDelay := false, run := .running }

/-- WAI, a wake-up and RTI resume at the instruction after the WAI with every register as it was. R413 and R518
(decisions D13 and D19 of the spec). -/
def Obligations.HandlerAfterWaiReturnsPastIt : Prop :=
  ∀ (s t : State) (vector : Word) (setX : Bool), exec .wai s = .next t →
    (setX = true → s.ccr.x = false) →
    (∀ k : Nat, 1 ≤ k → k ≤ 9 → s.IsStorage (s.sp - 9 + BitVec.ofNat 16 k)) →
    s.IsPlain vector → s.IsPlain (vector + 1) →
    ∀ q : Word, exec .rti (t.enter vector q setX false) = .next { s with
      mem := t.mem, iDelay := false, run := .running }

/-- STOP is a NOP with S set and stops with S clear; TEST locks in a test mode and traps outside one. R383 and
R394 (decisions D12 and D20 of the spec). PC is already past the one-byte TEST. -/
def Obligations.StopAndTestInTheirModes : Prop :=
  ∀ s : State,
    (s.ccr.s = true → exec .stop s = .next s) ∧
    (s.ccr.s = false → exec .stop s = .next { s with run := .stopped }) ∧
    (s.config.testMode = true → exec .test s = .next { s with run := .testLock }) ∧
    (s.config.testMode = false → ∃ t, exec .test s = .next t ∧
      Enters s t s.config.vecIllop
        (match s.config.illegalStackedPc with
          | .opcodeAddress => s.pc - 1
          | .nextAddress => s.pc) false)

/-- ABA, ADCA, ADCB, ADDA, ADDB: the sum modulo 256 and H, N, Z, V, C in the vendor's Boolean forms. R135 and
R200, R203 to R206; the flag formulas are decision D23 of the spec. Reading the operand has the side effect,
if any, of reading a device, log 10. -/
def Obligations.EightBitAdditions : Prop :=
  ∀ (s : State) (o : Src8),
    ActsOnA .aba s s (AddsByte s.b false) ∧
    ActsOnA (.adca o) s (s.after8 o) (AddsByte (s.opr8 o) s.ccr.c) ∧
    ActsOnB (.adcb o) s (s.after8 o) (AddsByte (s.opr8 o) s.ccr.c) ∧
    ActsOnA (.adda o) s (s.after8 o) (AddsByte (s.opr8 o) false) ∧
    ActsOnB (.addb o) s (s.after8 o) (AddsByte (s.opr8 o) false)

/-- SBA, SBCx, SUBx subtract modulo 256 and CBA, CMPx set the same flags and change no register. R136 and R261,
R268, R269, R366 to R368, R387, R388; the flag formulas are decision D23 of the spec. Reading the operand
has the side effect, if any, of reading a device, log 10. -/
def Obligations.EightBitSubtractionsAndComparisons : Prop :=
  ∀ (s : State) (o : Src8),
    ActsOnA .sba s s (SubtractsByte s.b false) ∧
    ActsOnA (.sbca o) s (s.after8 o) (SubtractsByte (s.opr8 o) s.ccr.c) ∧
    ActsOnB (.sbcb o) s (s.after8 o) (SubtractsByte (s.opr8 o) s.ccr.c) ∧
    ActsOnA (.suba o) s (s.after8 o) (SubtractsByte (s.opr8 o) false) ∧
    ActsOnB (.subb o) s (s.after8 o) (SubtractsByte (s.opr8 o) false) ∧
    ActsOnFlags .cba s s s.a (SubtractsByte s.b false) ∧
    ActsOnFlags (.cmpa o) s (s.after8 o) s.a (SubtractsByte (s.opr8 o) false) ∧
    ActsOnFlags (.cmpb o) s (s.after8 o) s.b (SubtractsByte (s.opr8 o) false)

/-- ADDD and SUBD compute modulo 65536; CPD, CPX and CPY set the flags of the subtraction alone. R137, R138 and
R207, R273 to R275, R389; the flag formulas are decision D23 of the spec. Reading the operand has the side
effect, if any, of reading a device, log 10. -/
def Obligations.SixteenBitArithmeticAndComparisons : Prop :=
  ∀ (s : State) (o : Src16),
    (∃ r f, exec (.addd o) s = .next { s.after16 o with a := highByte r, b := lowByte r, ccr := f } ∧
      AddsWord s.d (s.opr16 o) s.ccr r f) ∧
    (∃ r f, exec (.subd o) s = .next { s.after16 o with a := highByte r, b := lowByte r, ccr := f } ∧
      SubtractsWord s.d (s.opr16 o) s.ccr r f) ∧
    (∃ r f, exec (.cpd o) s = .next { s.after16 o with ccr := f } ∧
      SubtractsWord s.d (s.opr16 o) s.ccr r f) ∧
    (∃ r f, exec (.cpx o) s = .next { s.after16 o with ccr := f } ∧
      SubtractsWord s.ix (s.opr16 o) s.ccr r f) ∧
    (∃ r f, exec (.cpy o) s = .next { s.after16 o with ccr := f } ∧
      SubtractsWord s.iy (s.opr16 o) s.ccr r f)

/-- ANDx, ORAx, EORx and BITx: bit by bit, N and Z from the result, V cleared, C and H kept. R208, R209, R231,
R232, R293, R294, R336, R337; N and Z are decision D23, the restored cells of EORA and EORB decision D24 of
the spec. Reading the operand has the side effect, if any, of reading a device, log 10. -/
def Obligations.LogicOnTheAccumulators : Prop :=
  ∀ (s : State) (o : Src8), ∃ conjA conjB disjA disjB exclA exclB : Byte,
    (∀ k < 8, conjA.getLsbD k = (s.a.getLsbD k && (s.opr8 o).getLsbD k)) ∧
    (∀ k < 8, conjB.getLsbD k = (s.b.getLsbD k && (s.opr8 o).getLsbD k)) ∧
    (∀ k < 8, disjA.getLsbD k = (s.a.getLsbD k || (s.opr8 o).getLsbD k)) ∧
    (∀ k < 8, disjB.getLsbD k = (s.b.getLsbD k || (s.opr8 o).getLsbD k)) ∧
    (∀ k < 8, exclA.getLsbD k = (s.a.getLsbD k ^^ (s.opr8 o).getLsbD k)) ∧
    (∀ k < 8, exclB.getLsbD k = (s.b.getLsbD k ^^ (s.opr8 o).getLsbD k)) ∧
    exec (.anda o) s = .next { s.after8 o with a := conjA, ccr := s.ccr.signs conjA false s.ccr.c } ∧
    exec (.andb o) s = .next { s.after8 o with b := conjB, ccr := s.ccr.signs conjB false s.ccr.c } ∧
    exec (.oraa o) s = .next { s.after8 o with a := disjA, ccr := s.ccr.signs disjA false s.ccr.c } ∧
    exec (.orab o) s = .next { s.after8 o with b := disjB, ccr := s.ccr.signs disjB false s.ccr.c } ∧
    exec (.eora o) s = .next { s.after8 o with a := exclA, ccr := s.ccr.signs exclA false s.ccr.c } ∧
    exec (.eorb o) s = .next { s.after8 o with b := exclB, ccr := s.ccr.signs exclB false s.ccr.c } ∧
    exec (.bita o) s = .next { s.after8 o with ccr := s.ccr.signs conjA false s.ccr.c } ∧
    exec (.bitb o) s = .next { s.after8 o with ccr := s.ccr.signs conjB false s.ccr.c }

/-- LDAA, LDAB, LDD, LDS, LDX and LDY load their register, set N and Z from it, clear V and keep C. R123, R129,
R305 to R307, R320 to R322; the restored flag cells of LDAA, LDAB and LDD are decision D24 of the spec.
Reading the operand has the side effect, if any, of reading a device, log 10. -/
def Obligations.LoadsFillTheirRegister : Prop :=
  ∀ (s : State) (ii : Byte) (jjkk : Word) (m : Mem),
    (∀ (o : Src8) (x : Byte),
      (o = .imm ii ∧ x = ii) ∨ (o = .mem m ∧ x = s.readByte (s.ea m)) →
      exec (.ldaa o) s = .next { s.after8 o with a := x, ccr := s.ccr.signs x false s.ccr.c } ∧
      exec (.ldab o) s = .next { s.after8 o with b := x, ccr := s.ccr.signs x false s.ccr.c }) ∧
    (∀ (o : Src16) (h l : Byte) (x : Word), x.toNat = 256 * h.toNat + l.toNat →
      (o = .imm jjkk ∧ x = jjkk) ∨
        (o = .mem m ∧ h = s.readByte (s.ea m) ∧ l = (s.reading (s.ea m)).readByte (s.ea m + 1)) →
      exec (.ldd o) s = .next { s.after16 o with a := h, b := l, ccr := s.ccr.signs x false s.ccr.c } ∧
      exec (.lds o) s = .next { s.after16 o with sp := x, ccr := s.ccr.signs x false s.ccr.c } ∧
      exec (.ldx o) s = .next { s.after16 o with ix := x, ccr := s.ccr.signs x false s.ccr.c } ∧
      exec (.ldy o) s = .next { s.after16 o with iy := x, ccr := s.ccr.signs x false s.ccr.c })

/-- STAA, STAB, STD, STS, STX and STY store their register at the effective address and set N and Z from it.
R62, R63, R380 to R382, R384 to R386; N and Z are decision D23 of the spec; a write to a read-only or absent
cell is dropped (R67, log 11), one to a device cell is the platform's write function (log 10). -/
def Obligations.StoresWriteTheirRegister : Prop :=
  ∀ (s : State) (m : Mem),
    (∃ t, exec (.staa m) s = .next t ∧ StoresByte s t (s.ea m) s.a ∧
      t = { s with ccr := s.ccr.signs s.a false s.ccr.c, mem := t.mem, devices := t.devices }) ∧
    (∃ t, exec (.stab m) s = .next t ∧ StoresByte s t (s.ea m) s.b ∧
      t = { s with ccr := s.ccr.signs s.b false s.ccr.c, mem := t.mem, devices := t.devices }) ∧
    (∃ t, exec (.std m) s = .next t ∧ StoresWord s t (s.ea m) s.d ∧
      t = { s with ccr := s.ccr.signs s.d false s.ccr.c, mem := t.mem, devices := t.devices }) ∧
    (∃ t, exec (.sts m) s = .next t ∧ StoresWord s t (s.ea m) s.sp ∧
      t = { s with ccr := s.ccr.signs s.sp false s.ccr.c, mem := t.mem, devices := t.devices }) ∧
    (∃ t, exec (.stx m) s = .next t ∧ StoresWord s t (s.ea m) s.ix ∧
      t = { s with ccr := s.ccr.signs s.ix false s.ccr.c, mem := t.mem, devices := t.devices }) ∧
    (∃ t, exec (.sty m) s = .next t ∧ StoresWord s t (s.ea m) s.iy ∧
      t = { s with ccr := s.ccr.signs s.iy false s.ccr.c, mem := t.mem, devices := t.devices })

/-- INC, INCA, INCB, DEC, DECA and DECB: plus or minus one modulo 256, V on signed overflow, C and H kept. R277
to R279 and R297 to R299; the V formula is the spec's general knowledge, the restored cells of INC decision
D24. A form without encoding (DIR) has the same effect, log 15. -/
def Obligations.IncrementsAndDecrementsOfAByte : Prop :=
  ∀ (s : State) (m : Mem),
    ActsOnMemory (.inc m) m s Increments ∧ ActsOnA .inca s s Increments ∧ ActsOnB .incb s s Increments ∧
    ActsOnMemory (.dec m) m s Decrements ∧ ActsOnA .deca s s Decrements ∧ ActsOnB .decb s s Decrements

/-- NEG, COM, CLR and TST and their accumulator forms: results and N, Z, V, C. R264 to R266, R270 to R272, R332
to R334, R396 to R398; the V and C formulas of NEG are the spec's general knowledge. CLR does not read its
byte (R66). A form without encoding (DIR) has the same effect, log 15. -/
def Obligations.NegateComplementClearAndTest : Prop :=
  ∀ (s : State) (m : Mem),
    ActsOnMemory (.neg m) m s Negates ∧ ActsOnA .nega s s Negates ∧ ActsOnB .negb s s Negates ∧
    ActsOnMemory (.com m) m s Complements ∧ ActsOnA .coma s s Complements ∧
    ActsOnB .comb s s Complements ∧
    (∃ t, exec (.clr m) s = .next t ∧ StoresByte s t (s.ea m) 0 ∧
      t = { s with ccr := { s.ccr with n := false, z := true, v := false, c := false }
                   mem := t.mem, devices := t.devices }) ∧
     ActsOnA .clra s s Clears ∧
    ActsOnB .clrb s s Clears ∧
    exec (.tst m) s = .next { s.reading (s.ea m) with
      ccr := s.ccr.signs (s.readByte (s.ea m)) false false } ∧
    exec .tsta s = .next { s with ccr := s.ccr.signs s.a false false } ∧
    exec .tstb s = .next { s with ccr := s.ccr.signs s.b false false }

/-- ASL, LSL, ASR and LSR in all their forms, ASLD, LSLD and LSRD: the result, C the bit shifted out, V = N xor
C. R139, R210 to R213, R220 to R222, R323 to R330; the bit movements and formulas are decision D25 of the
spec. A form without encoding (DIR) has the same effect, log 15. -/
def Obligations.ShiftsByOnePlace : Prop :=
  ∀ (s : State) (m : Mem),
    ActsOnMemory (.asl m) m s ShiftsLeft ∧ ActsOnA .asla s s ShiftsLeft ∧ ActsOnB .aslb s s ShiftsLeft ∧
    ActsOnMemory (.lsl m) m s ShiftsLeft ∧ ActsOnA .lsla s s ShiftsLeft ∧ ActsOnB .lslb s s ShiftsLeft ∧
    ActsOnMemory (.asr m) m s HalvesSigned ∧ ActsOnA .asra s s HalvesSigned ∧
    ActsOnB .asrb s s HalvesSigned ∧
    ActsOnMemory (.lsr m) m s HalvesUnsigned ∧ ActsOnA .lsra s s HalvesUnsigned ∧
    ActsOnB .lsrb s s HalvesUnsigned ∧
    (∃ r : Word, r.toNat = 2 * s.d.toNat % 65536 ∧
      exec .asld s = .next { s with a := highByte r, b := lowByte r
                                    ccr := s.ccr.shiftSigns r (decide (32768 ≤ s.d.toNat)) } ∧
      exec .lsld s = .next { s with a := highByte r, b := lowByte r
                                    ccr := s.ccr.shiftSigns r (decide (32768 ≤ s.d.toNat)) }) ∧
    (∃ r : Word, r.toNat = s.d.toNat / 2 ∧
      exec .lsrd s = .next { s with a := highByte r, b := lowByte r
                                    ccr := s.ccr.shiftSigns r (decide (s.d.toNat % 2 = 1)) })

/-- ROL, ROLA, ROLB, ROR, RORA and RORB move nine bits round, V = N xor C. R139 and R358 to R363; that the
rotate goes through C is decision D25 of the spec. A form without encoding (DIR) has the same effect, log
15. -/
def Obligations.RotatesThroughTheCarry : Prop :=
  ∀ (s : State) (m : Mem),
    ActsOnMemory (.rol m) m s RotatesLeft ∧ ActsOnA .rola s s RotatesLeft ∧ ActsOnB .rolb s s RotatesLeft ∧
    ActsOnMemory (.ror m) m s RotatesRight ∧ ActsOnA .rora s s RotatesRight ∧ ActsOnB .rorb s s RotatesRight

/-- ABX and ABY add B unsigned to an index register, INS and DES step SP: no flag, no memory access. R201, R202,
R290 and R300: operation, flags, encoding and cycles. -/
def Obligations.AccumulatorAndStackPointerAdditions : Prop :=
  ∀ s : State,
    (∃ r : Word, r.toNat = (s.ix.toNat + s.b.toNat) % 65536 ∧ exec .abx s = .next { s with ix := r }) ∧
    (∃ r : Word, r.toNat = (s.iy.toNat + s.b.toNat) % 65536 ∧ exec .aby s = .next { s with iy := r }) ∧
    (∃ r : Word, r.toNat = (s.sp.toNat + 1) % 65536 ∧ exec .ins s = .next { s with sp := r }) ∧
    (∃ r : Word, (r.toNat + 1) % 65536 = s.sp.toNat ∧ exec .des s = .next { s with sp := r }) ∧
    Coded .abx [0x3A] 3 ∧ Coded .aby [0x18, 0x3A] 4 ∧ Coded .ins [0x31] 3 ∧ Coded .des [0x34] 3

/-- INX, INY, DEX and DEY step an index register modulo 65536 and write Z alone. R291, R292, R301, R302; that Z
alone is written is decision D24 of the spec. -/
def Obligations.IndexRegisterCounters : Prop :=
  ∀ s : State,
    (∃ r : Word, r.toNat = (s.ix.toNat + 1) % 65536 ∧
      exec .inx s = .next { s with ix := r, ccr := { s.ccr with z := decide (s.ix.toNat = 65535) } }) ∧
    (∃ r : Word, r.toNat = (s.iy.toNat + 1) % 65536 ∧
      exec .iny s = .next { s with iy := r, ccr := { s.ccr with z := decide (s.iy.toNat = 65535) } }) ∧
    (∃ r : Word, (r.toNat + 1) % 65536 = s.ix.toNat ∧
      exec .dex s = .next { s with ix := r, ccr := { s.ccr with z := decide (s.ix.toNat = 1) } }) ∧
    (∃ r : Word, (r.toNat + 1) % 65536 = s.iy.toNat ∧
      exec .dey s = .next { s with iy := r, ccr := { s.ccr with z := decide (s.iy.toNat = 1) } })

/-- TAB and TBA copy an accumulator, set N and Z from it, clear V and keep C. R391 and R393; N and Z are
decision D23 of the spec. -/
def Obligations.TransfersBetweenAccumulators : Prop :=
  ∀ s : State,
    exec .tab s = .next { s with b := s.a, ccr := s.ccr.signs s.a false s.ccr.c } ∧
    exec .tba s = .next { s with a := s.b, ccr := s.ccr.signs s.b false s.ccr.c }

/-- TPA copies the eight flags to A, TAP takes them from A with X only falling, CLI clears I; the hold-off bit.
R27 and R395 (decision D1 of the spec), R140, R392, R263, R514 (decision D18). -/
def Obligations.TransfersOfTheConditionCodes : Prop :=
  ∀ s : State,
    (∃ r : Byte, exec .tpa s = .next { s with a := r } ∧
      r.getLsbD 7 = s.ccr.s ∧ r.getLsbD 6 = s.ccr.x ∧ r.getLsbD 5 = s.ccr.h ∧ r.getLsbD 4 = s.ccr.i ∧
      r.getLsbD 3 = s.ccr.n ∧ r.getLsbD 2 = s.ccr.z ∧ r.getLsbD 1 = s.ccr.v ∧ r.getLsbD 0 = s.ccr.c) ∧
    exec .tap s = .next { s with
      ccr := { s := s.a.getLsbD 7, x := s.ccr.x && s.a.getLsbD 6, h := s.a.getLsbD 5,
               i := s.a.getLsbD 4, n := s.a.getLsbD 3, z := s.a.getLsbD 2, v := s.a.getLsbD 1,
               c := s.a.getLsbD 0 }
      iDelay := s.iDelay || (s.ccr.i && !s.a.getLsbD 4 && s.config.iClearDelay) } ∧
    exec .cli s = .next { s with
      ccr := { s.ccr with i := false }
      iDelay := s.iDelay || (s.ccr.i && s.config.iClearDelay) }

/-- TSX, TSY give SP + 1, TXS, TYS set SP to the register - 1, XGDX, XGDY exchange with D: no flag changes.
R399, R410 to R412, R414 and R415: operation, flags, encoding and cycles. -/
def Obligations.TransfersAndExchangesOfTheIndexRegisters : Prop :=
  ∀ s : State,
    (∃ r : Word, r.toNat = (s.sp.toNat + 1) % 65536 ∧ exec .tsx s = .next { s with ix := r } ∧
      exec .tsy s = .next { s with iy := r }) ∧
    (∃ r : Word, (r.toNat + 1) % 65536 = s.ix.toNat ∧ exec .txs s = .next { s with sp := r }) ∧
    (∃ r : Word, (r.toNat + 1) % 65536 = s.iy.toNat ∧ exec .tys s = .next { s with sp := r }) ∧
    (∃ r : Word, r.toNat = 256 * s.a.toNat + s.b.toNat ∧
      exec .xgdx s = .next { s with ix := r, a := highByte s.ix, b := lowByte s.ix } ∧
      exec .xgdy s = .next { s with iy := r, a := highByte s.iy, b := lowByte s.iy }) ∧
    Coded .tsx [0x30] 3 ∧ Coded .tsy [0x18, 0x30] 4 ∧ Coded .txs [0x35] 3 ∧ Coded .tys [0x18, 0x35] 4 ∧
    Coded .xgdx [0x8F] 3 ∧ Coded .xgdy [0x18, 0x8F] 4

/-- CLC, CLV, SEC, SEI and SEV write one flag and leave the other seven. R262, R267, R369, R370 and R371:
operation, flags, encoding and cycles. -/
def Obligations.SingleFlagInstructions : Prop :=
  ∀ s : State,
    exec .clc s = .next { s with ccr := { s.ccr with c := false } } ∧
    exec .clv s = .next { s with ccr := { s.ccr with v := false } } ∧
    exec .sec s = .next { s with ccr := { s.ccr with c := true } } ∧
    exec .sei s = .next { s with ccr := { s.ccr with i := true } } ∧
    exec .sev s = .next { s with ccr := { s.ccr with v := true } } ∧
    Coded .clc [0x0C] 2 ∧ Coded .clv [0x0A] 2 ∧ Coded .sec [0x0D] 2 ∧ Coded .sei [0x0F] 2 ∧
    Coded .sev [0x0B] 2

/-- Pushes store at SP and below, low byte first, and pulls load from above SP, high byte first; no flag
changes. R350 to R357 over the stack primitives R130 to R133: operation, flags, encoding and cycles. That a
push to a read-only or absent cell leaves every read as before is log 11; what a push to a device cell or a
pull from one does is log 10. -/
def Obligations.PushesAndPulls : Prop :=
  ∀ s : State,
    (∃ t, exec .psha s = .next t ∧ StoresByte s t s.sp s.a ∧
      t = { s with sp := s.sp - 1, mem := t.mem, devices := t.devices }) ∧
    (∃ t, exec .pshb s = .next t ∧ StoresByte s t s.sp s.b ∧
      t = { s with sp := s.sp - 1, mem := t.mem, devices := t.devices }) ∧
    (∃ t, exec .pshx s = .next t ∧ PushesWord s t s.ix ∧
      t = { s with sp := s.sp - 2, mem := t.mem, devices := t.devices }) ∧
    (∃ t, exec .pshy s = .next t ∧ PushesWord s t s.iy ∧
      t = { s with sp := s.sp - 2, mem := t.mem, devices := t.devices }) ∧
    exec .pula s = .next { s.reading (s.sp + 1) with a := s.readByte (s.sp + 1), sp := s.sp + 1 } ∧
    exec .pulb s = .next { s.reading (s.sp + 1) with b := s.readByte (s.sp + 1), sp := s.sp + 1 } ∧
    (∃ r : Word,
      r.toNat = 256 * (s.readByte (s.sp + 1)).toNat + ((s.reading (s.sp + 1)).readByte (s.sp + 2)).toNat ∧
      exec .pulx s = .next { s.readingWord (s.sp + 1) with ix := r, sp := s.sp + 2 } ∧
      exec .puly s = .next { s.readingWord (s.sp + 1) with iy := r, sp := s.sp + 2 }) ∧
    Coded .psha [0x36] 3 ∧ Coded .pshb [0x37] 3 ∧ Coded .pshx [0x3C] 4 ∧ Coded .pshy [0x18, 0x3C] 5 ∧
    Coded .pula [0x32] 4 ∧ Coded .pulb [0x33] 4 ∧ Coded .pulx [0x38] 5 ∧ Coded .puly [0x18, 0x38] 6

/-- The sixteen conditions and the two second names: a branch changes PC alone, taken exactly when its condition
holds. R127, R141, R223, R225 to R230, R233 to R240, R242, R246, R260; the wrap of a target is decision D4
of the spec. -/
def Obligations.ConditionalBranches : Prop :=
  ∀ (s : State) (rr : Byte),
    Branches (.bra rr) rr s s True ∧ Branches (.brn rr) rr s s False ∧
    Branches (.bhi rr) rr s s (s.ccr.c = false ∧ s.ccr.z = false) ∧
    Branches (.bls rr) rr s s (s.ccr.c = true ∨ s.ccr.z = true) ∧
    Branches (.bcc rr) rr s s (s.ccr.c = false) ∧ Branches (.bhs rr) rr s s (s.ccr.c = false) ∧
    Branches (.bcs rr) rr s s (s.ccr.c = true) ∧ Branches (.blo rr) rr s s (s.ccr.c = true) ∧
    Branches (.bne rr) rr s s (s.ccr.z = false) ∧ Branches (.beq rr) rr s s (s.ccr.z = true) ∧
    Branches (.bvc rr) rr s s (s.ccr.v = false) ∧ Branches (.bvs rr) rr s s (s.ccr.v = true) ∧
    Branches (.bpl rr) rr s s (s.ccr.n = false) ∧ Branches (.bmi rr) rr s s (s.ccr.n = true) ∧
    Branches (.bge rr) rr s s (s.ccr.n = s.ccr.v) ∧ Branches (.blt rr) rr s s (s.ccr.n ≠ s.ccr.v) ∧
    Branches (.bgt rr) rr s s (s.ccr.z = false ∧ s.ccr.n = s.ccr.v) ∧
    Branches (.ble rr) rr s s (s.ccr.z = true ∨ s.ccr.n ≠ s.ccr.v)

/-- BSET and BCLR write the masked byte back, BRSET and BRCLR branch on it; the mask selects the bits. R224,
R241, R243, R244; the complement in BCLR and BRSET is conflicts C4 and C5. Reading the byte has the side
effect, if any, of reading a device, log 10. A form without encoding (EXT) has the same effect, log 15. -/
def Obligations.BitManipulation : Prop :=
  ∀ (s : State) (m : Mem) (mm rr : Byte),
    ActsOnMemory (.bset m mm) m s (fun x f r g =>
      (∀ k < 8, r.getLsbD k = (x.getLsbD k || mm.getLsbD k)) ∧ g = f.signs r false f.c) ∧
    ActsOnMemory (.bclr m mm) m s (fun x f r g =>
      (∀ k < 8, r.getLsbD k = (x.getLsbD k && !mm.getLsbD k)) ∧ g = f.signs r false f.c) ∧
    Branches (.brset m mm rr) rr s (s.reading (s.ea m))
      (∀ k < 8, mm.getLsbD k = true → (s.readByte (s.ea m)).getLsbD k = true) ∧
    Branches (.brclr m mm rr) rr s (s.reading (s.ea m))
      (∀ k < 8, mm.getLsbD k = true → (s.readByte (s.ea m)).getLsbD k = false)

/-- JMP, JSR, BSR and RTS, and NOP: where PC goes and what is stacked. R142, R245, R303, R304, R335, R365; the
stacking is decision D14 of the spec. A form without encoding (JMP DIR) has the same effect, log 15; a stack
cell that is a device's is log 10, one that is read-only or absent log 11. -/
def Obligations.JumpsCallsAndReturns : Prop :=
  ∀ (s : State) (m : Mem) (rr : Byte),
    exec (.jmp m) s = .next { s with pc := s.ea m } ∧
    (∃ t, exec (.jsr m) s = .next t ∧ PushesWord s t s.pc ∧
      t = { s with sp := s.sp - 2, pc := s.ea m, mem := t.mem, devices := t.devices }) ∧
    (∃ t, exec (.bsr rr) s = .next t ∧ PushesWord s t s.pc ∧
      t = { s with sp := s.sp - 2, pc := s.branchTarget rr, mem := t.mem, devices := t.devices }) ∧
    (∃ r : Word,
      r.toNat = 256 * (s.readByte (s.sp + 1)).toNat + ((s.reading (s.sp + 1)).readByte (s.sp + 2)).toNat ∧
      exec .rts s = .next { s.readingWord (s.sp + 1) with pc := r, sp := s.sp + 2 }) ∧
    exec .nop s = .next s

/-- MUL, IDIV and FDIV: unsigned results, their flags, and D free after a division that fails. R295, R296 and
R331 (decisions D24, D27 and D28 of the spec). D after a failing division is a free value, log 8. -/
def Obligations.MultiplyAndDivide : Prop :=
  ∀ s : State,
    (∃ p : Word, p.toNat = s.a.toNat * s.b.toNat ∧
      exec .mul s = .next { s with
        a := highByte p, b := lowByte p
        ccr := { s.ccr with c := decide (128 ≤ s.a.toNat * s.b.toNat % 256) } }) ∧
    (s.ix.toNat ≠ 0 → ∃ q r : Word, q.toNat = s.d.toNat / s.ix.toNat ∧ r.toNat = s.d.toNat % s.ix.toNat ∧
      exec .idiv s = .next { s with
        ix := q, a := highByte r, b := lowByte r
        ccr := { s.ccr with z := decide (s.d.toNat < s.ix.toNat), v := false, c := false } }) ∧
    (s.ix.toNat = 0 → ∃ r : Word,
      exec .idiv s = .next { s with
        ix := 0xFFFF, a := highByte r, b := lowByte r
        ccr := { s.ccr with z := false, v := false, c := true } }) ∧
    (s.d.toNat < s.ix.toNat → ∃ q r : Word, q.toNat = s.d.toNat * 65536 / s.ix.toNat ∧
      r.toNat = s.d.toNat * 65536 % s.ix.toNat ∧
      exec .fdiv s = .next { s with
        ix := q, a := highByte r, b := lowByte r
        ccr := { s.ccr with z := decide (s.d.toNat * 65536 < s.ix.toNat), v := false, c := false } }) ∧
    (s.ix.toNat ≤ s.d.toNat → ∃ r : Word,
      exec .fdiv s = .next { s with
        ix := 0xFFFF, a := highByte r, b := lowByte r
        ccr := { s.ccr with z := false, v := true, c := decide (s.ix.toNat = 0) } })

/-- DAA adds what the nine-row table says and sets C as it says; H, S, X and I are kept in every case. The table
of R276 (decision D26 of the spec). V (U4) and the results outside the table (U5) are free values, log 7. -/
def Obligations.DecimalAdjustFollowsItsTable : Prop :=
  ∀ s : State,
    (∃ r n z v c, exec .daa s = .next { s with
      a := r, ccr := { s.ccr with n := n, z := z, v := v, c := c } }) ∧
    (∀ row ∈ ([(false, 0, 9, false, 0, 9, 0x00, false), (false, 0, 8, false, 10, 15, 0x06, false),
        (false, 0, 9, true, 0, 3, 0x06, false), (false, 10, 15, false, 0, 9, 0x60, true),
        (false, 9, 15, false, 10, 15, 0x66, true), (false, 10, 15, true, 0, 3, 0x66, true),
        (true, 0, 2, false, 0, 9, 0x60, true), (true, 0, 2, false, 10, 15, 0x66, true),
        (true, 0, 3, true, 0, 3, 0x66, true)] :
        List (Bool × Nat × Nat × Bool × Nat × Nat × Nat × Bool)),
      match row with
      | (cBefore, hiFrom, hiTo, hBefore, loFrom, loTo, added, cAfter) =>
        s.ccr.c = cBefore → hiFrom ≤ s.a.toNat / 16 → s.a.toNat / 16 ≤ hiTo → s.ccr.h = hBefore →
        loFrom ≤ s.a.toNat % 16 → s.a.toNat % 16 ≤ loTo →
        ∃ (r : Byte) (v : Bool), r.toNat = (s.a.toNat + added) % 256 ∧
          exec .daa s = .next { s with a := r, ccr := s.ccr.signs r v cAfter })

/-- After CMPA the unsigned and the signed branches order A and the operand as numbers. The last column of the
table of R141, which the spec marks [derived: from rule R136]; the flags are decision D23. -/
def Obligations.CompareThenBranchOrdersNumbers : Prop :=
  ∀ (s : State) (o : Src8) (rr : Byte), ∃ t, exec (.cmpa o) s = .next t ∧
    Branches (.bhi rr) rr t t ((s.opr8 o).toNat < s.a.toNat) ∧
    Branches (.bls rr) rr t t (s.a.toNat ≤ (s.opr8 o).toNat) ∧
    Branches (.bcc rr) rr t t ((s.opr8 o).toNat ≤ s.a.toNat) ∧
    Branches (.bcs rr) rr t t (s.a.toNat < (s.opr8 o).toNat) ∧
    Branches (.bne rr) rr t t (s.a ≠ s.opr8 o) ∧ Branches (.beq rr) rr t t (s.a = s.opr8 o) ∧
    Branches (.bgt rr) rr t t ((s.opr8 o).toInt < s.a.toInt) ∧
    Branches (.ble rr) rr t t (s.a.toInt ≤ (s.opr8 o).toInt) ∧
    Branches (.bge rr) rr t t ((s.opr8 o).toInt ≤ s.a.toInt) ∧
    Branches (.blt rr) rr t t (s.a.toInt < (s.opr8 o).toInt)

/-- ADCA of two packed-BCD bytes and then DAA is decimal addition with C the decimal carry. The corner cases of
R276: "the algorithm yields the packed-BCD sum with C as the decimal carry" (decision D26 of the spec). -/
def Obligations.DecimalAdjustAfterAdditionIsBcdAddition : Prop :=
  ∀ (s : State) (o : Src8), s.a.toNat / 16 ≤ 9 → s.a.toNat % 16 ≤ 9 →
    (s.opr8 o).toNat / 16 ≤ 9 → (s.opr8 o).toNat % 16 ≤ 9 →
    ∃ t u, exec (.adca o) s = .next t ∧ exec .daa t = .next u ∧
      u.a.toNat / 16 * 10 + u.a.toNat % 16 =
        (s.a.toNat / 16 * 10 + s.a.toNat % 16 + ((s.opr8 o).toNat / 16 * 10 + (s.opr8 o).toNat % 16) +
          carryNat s.ccr.c) % 100 ∧
      u.a.toNat / 16 ≤ 9 ∧ u.a.toNat % 16 ≤ 9 ∧
      u.ccr.c = decide (100 ≤ s.a.toNat / 16 * 10 + s.a.toNat % 16 +
        ((s.opr8 o).toNat / 16 * 10 + (s.opr8 o).toNat % 16) + carryNat s.ccr.c)

/-- FDIV repeated on the remainder with the same divisor gives the next sixteen bits of the fraction. The corner
cases of R295 (decision D27 of the spec). -/
def Obligations.SecondFractionalDivideGivesTheNextSixteenBits : Prop :=
  ∀ s : State, s.d.toNat < s.ix.toNat →
    ∃ t u v, exec .fdiv s = .next t ∧ exec (.ldx (.imm s.ix)) t = .next u ∧ exec .fdiv u = .next v ∧
      t.d.toNat < s.ix.toNat ∧ v.ccr.v = false ∧
      t.ix.toNat * 65536 + v.ix.toNat = s.d.toNat * 4294967296 / s.ix.toNat ∧
      v.d.toNat = s.d.toNat * 4294967296 % s.ix.toNat

/-- Nine ROLA in a row restore A and C. R139: "nine ROLA in a row restore A and C" (decision D25 of the spec). -/
def Obligations.NineRotationsRestoreTheByte : Prop :=
  ∀ s : State,
    ∃ t : Nat → State, t 0 = s ∧ (∀ k < 9, exec .rola (t k) = .next (t (k + 1))) ∧
      ∃ n z v, t 9 = { s with ccr := { s.ccr with n := n, z := z, v := v } }

/-- ASLB; ROLA is ASLD, LSRA; RORB shifts D as LSRD, and SUBB; SBCA is SUBD, but for Z and single flags. The
corner cases of R358, R361 and R367 (decisions D23 and D25 of the spec). R361 says that LSRA; RORB is LSRD
but for Z; by the rules R139 its N and V differ too, so nothing is said of them here. -/
def Obligations.WideOperationsByBytes : Prop :=
  ∀ (s : State) (h l : Byte),
    (∃ t u w, exec .aslb s = .next t ∧ exec .rola t = .next u ∧ exec .asld s = .next w ∧
      u.d = w.d ∧ u.ccr.n = w.ccr.n ∧ u.ccr.v = w.ccr.v ∧ u.ccr.c = w.ccr.c) ∧
    (∃ t u w, exec .lsra s = .next t ∧ exec .rorb t = .next u ∧ exec .lsrd s = .next w ∧
      u.d = w.d ∧ u.ccr.c = w.ccr.c) ∧
    (∃ t u w, exec (.subb (.imm l)) s = .next t ∧ exec (.sbca (.imm h)) t = .next u ∧
      exec (.subd (.imm (wordOf h l))) s = .next w ∧
      u.d = w.d ∧ u.ccr.n = w.ccr.n ∧ u.ccr.v = w.ccr.v ∧ u.ccr.c = w.ccr.c)

/-- RTS undoes JSR and BSR, PULX undoes PSHX, PULY undoes PSHY, PULA undoes PSHA. R133 ("Pull16 undoes Push16"),
R142 and the corner cases of R356; the stacking of BSR, JSR and RTS is decision D14 of the spec. -/
def Obligations.SubroutinesReturnAndPushesAreUndone : Prop :=
  ∀ (s : State) (m : Mem) (rr : Byte), s.IsStorage s.sp → s.IsStorage (s.sp - 1) →
    (∃ t, exec (.jsr m) s = .next t ∧ exec .rts t = .next { s with mem := t.mem }) ∧
    (∃ t, exec (.bsr rr) s = .next t ∧ exec .rts t = .next { s with mem := t.mem }) ∧
    (∃ t, exec .pshx s = .next t ∧ exec .pulx t = .next { s with mem := t.mem }) ∧
    (∃ t, exec .pshy s = .next t ∧ exec .puly t = .next { s with mem := t.mem }) ∧
    (∃ t, exec .psha s = .next t ∧ exec .pula t = .next { s with mem := t.mem }) ∧
    (∃ t, exec .pshx s = .next t ∧ exec .puly t = .next { s with iy := s.ix, mem := t.mem })
end

