-- ==== Sys2Proof/Laws/Flags.lean ====
section
/-! SUPPORT. What each flag function computes, said once: the result as a number, N and Z by the sign and the
value of the result, V and C by the vendor's Boolean forms or by the number that does not fit. -/

namespace Sys2Proof.Machine

theorem msb_eq_toInt_neg {w : Nat} (x : BitVec w) : x.msb = decide (x.toInt < 0) := by
  rw [← BitVec.slt_zero_eq_msb]
  simp [BitVec.slt]

theorem beq_zero_eq_toNat {w : Nat} (x : BitVec w) : (x == 0#w) = decide (x.toNat = 0) := by
  by_cases h : x = 0#w
  · simp [h]
  · have : x.toNat ≠ 0 := fun h' => h (BitVec.eq_of_toNat_eq (by simpa using h'))
    simp [h, this]

/-- `NZ8`, `NZ16` in the terms of the statements. -/
theorem CCR.nz_eq_signs {w : Nat} (f : CCR) (r : BitVec w) : f.nz r = f.signs r f.v f.c := by
  simp only [CCR.nz, CCR.signs, msb_eq_toInt_neg, beq_zero_eq_toNat]

/-- The flags of loads, stores and logic in the terms of the statements. -/
theorem CCR.logic_eq_signs {w : Nat} (f : CCR) (r : BitVec w) : f.logic r = f.signs r false f.c := by
  simp only [CCR.logic, CCR.nz_eq_signs]
  rfl

/-- The flags of a shift in the terms of the statements. -/
theorem CCR.shifted_eq_shiftSigns {w : Nat} (f : CCR) (r : BitVec w) (c : Bool) :
    f.shifted r c = f.shiftSigns r c := by
  simp only [CCR.shifted, CCR.shiftSigns, CCR.nz_eq_signs, msb_eq_toInt_neg]
  rfl

theorem CCR.test_eq_signs (f : CCR) (x : Byte) : f.test x = f.signs x false false := by
  simp only [CCR.test, CCR.nz_eq_signs]
  rfl

theorem bit7_eq (x : Byte) : x.getLsbD 7 = decide (128 ≤ x.toNat) := by
  have : x.getLsbD 7 = x.msb := (BitVec.msb_eq_getLsbD_last x).symm
  rw [this, BitVec.msb_eq_decide]

theorem bit3_eq (x : Byte) : x.getLsbD 3 = decide (8 ≤ x.toNat % 16) := by
  have := x.isLt
  rw [BitVec.getLsbD, Nat.testBit_eq_decide_div_mod_eq]
  by_cases h : 8 ≤ x.toNat % 16 <;> simp [h] <;> omega

theorem bit0_eq (x : Byte) : x.getLsbD 0 = decide (x.toNat % 2 = 1) := by
  rw [BitVec.getLsbD, Nat.testBit_eq_decide_div_mod_eq]
  simp

theorem bit15_eq (x : Word) : x.msb = decide (32768 ≤ x.toNat) := by
  rw [BitVec.msb_eq_decide]

theorem byte_toInt (x : Byte) : x.toInt = if x.toNat < 128 then (x.toNat : Int) else x.toNat - 256 := by
  have := x.isLt
  rw [BitVec.toInt_eq_toNat_cond]
  split <;> split <;> omega

theorem word_toInt (x : Word) :
    x.toInt = if x.toNat < 32768 then (x.toNat : Int) else x.toNat - 65536 := by
  have := x.isLt
  rw [BitVec.toInt_eq_toNat_cond]
  split <;> split <;> omega

/-- `Add8` (R135) is an 8-bit addition with the vendor's flags. -/
theorem add8_adds (a m : Byte) (c : Bool) (f : CCR) :
    AddsByte m c a f (add8 a m c f).1 (add8 a m c f).2 := by
  have ha := a.isLt
  have hm := m.isLt
  have hc : carryNat c = c.toNat := by cases c <;> rfl
  have hc1 : c.toNat ≤ 1 := Bool.toNat_le c
  refine ⟨by simp [add8, hc], ?_⟩
  simp only [add8, CCR.nz_eq_signs, CCR.signs, carryForm, addOverflowForm, bit7_eq, bit3_eq,
    BitVec.msb_eq_decide, BitVec.toNat_ofNat]
  congr 1
  · rw [Bool.eq_iff_iff]
    simp only [Bool.or_eq_true, Bool.and_eq_true, Bool.not_eq_true', decide_eq_true_eq,
      decide_eq_false_iff_not]
    omega
  · rw [Bool.eq_iff_iff]
    simp only [Bool.or_eq_true, Bool.and_eq_true, Bool.not_eq_true', decide_eq_true_eq,
      decide_eq_false_iff_not, beq_iff_eq, bne_iff_ne, ne_eq, decide_eq_decide]
    omega
  · rw [Bool.eq_iff_iff]
    simp only [Bool.or_eq_true, Bool.and_eq_true, Bool.not_eq_true', decide_eq_true_eq,
      decide_eq_false_iff_not]
    omega

theorem sub8_fst_toNat (a m : Byte) (c : Bool) (f : CCR) :
    ((sub8 a m c f).1.toNat : Int) = ((a.toNat : Int) - m.toNat - c.toNat) % 256 := by
  simp [sub8]
  omega

/-- `Sub8` (R136) is an 8-bit subtraction with the vendor's flags. -/
theorem sub8_subtracts (a m : Byte) (c : Bool) (f : CCR) :
    SubtractsByte m c a f (sub8 a m c f).1 (sub8 a m c f).2 := by
  have ha := a.isLt
  have hm := m.isLt
  have hc : carryNat c = c.toNat := by cases c <;> rfl
  have hc1 : c.toNat ≤ 1 := Bool.toNat_le c
  have hr := sub8_fst_toNat a m c f
  have hrl := (sub8 a m c f).1.isLt
  refine ⟨by omega, ?_⟩
  have h2 : (sub8 a m c f).2 = { f.nz (sub8 a m c f).1 with
      v := (a.msb != m.msb) && ((sub8 a m c f).1.msb != a.msb)
      c := decide (m.toNat + c.toNat > a.toNat) } := rfl
  rw [h2]
  simp only [CCR.nz_eq_signs, CCR.signs, borrowForm, subOverflowForm, bit7_eq, BitVec.msb_eq_decide]
  congr 1
  · rw [Bool.eq_iff_iff]
    simp only [Bool.or_eq_true, Bool.and_eq_true, Bool.not_eq_true', decide_eq_true_eq,
      decide_eq_false_iff_not, bne_iff_ne, ne_eq, decide_eq_decide]
    omega
  · rw [Bool.eq_iff_iff]
    simp only [Bool.or_eq_true, Bool.and_eq_true, Bool.not_eq_true', decide_eq_true_eq,
      decide_eq_false_iff_not]
    omega

/-- `Add16` (R137). -/
theorem add16_adds (a m : Word) (f : CCR) : AddsWord a m f (add16 a m f).1 (add16 a m f).2 := by
  have ha := a.isLt
  have hm := m.isLt
  refine ⟨by simp [add16], ?_⟩
  simp only [add16, CCR.nz_eq_signs, CCR.signs, bit15_eq, word_toInt, BitVec.toNat_ofNat]
  congr 1
  · rw [Bool.eq_iff_iff]
    simp only [Bool.and_eq_true, decide_eq_true_eq, beq_iff_eq, bne_iff_ne, ne_eq, decide_eq_decide]
    split <;> split <;> split <;> omega

theorem sub16_fst_toNat (a m : Word) (f : CCR) :
    ((sub16 a m f).1.toNat : Int) = ((a.toNat : Int) - m.toNat) % 65536 := by
  simp [sub16]
  omega

/-- `Sub16` (R138). -/
theorem sub16_subtracts (a m : Word) (f : CCR) :
    SubtractsWord a m f (sub16 a m f).1 (sub16 a m f).2 := by
  have ha := a.isLt
  have hm := m.isLt
  have hr := sub16_fst_toNat a m f
  have hrl := (sub16 a m f).1.isLt
  refine ⟨by omega, ?_⟩
  have h2 : (sub16 a m f).2 = { f.nz (sub16 a m f).1 with
      v := (a.msb != m.msb) && ((sub16 a m f).1.msb != a.msb)
      c := decide (m.toNat > a.toNat) } := rfl
  rw [h2]
  simp only [CCR.nz_eq_signs, CCR.signs, bit15_eq, word_toInt]
  congr 1
  · rw [Bool.eq_iff_iff]
    simp only [Bool.and_eq_true, decide_eq_true_eq, bne_iff_ne, ne_eq, decide_eq_decide]
    split <;> split <;> split <;> omega

theorem byte_beq (x y : Byte) : (x == y) = decide (x.toNat = y.toNat) := by
  rw [Bool.eq_iff_iff]
  simp only [beq_iff_eq, decide_eq_true_eq]
  exact ⟨fun h => h ▸ rfl, BitVec.eq_of_toNat_eq⟩

/-- INC (R297). -/
theorem inc8_increments (x : Byte) (f : CCR) : Increments x f (inc8 x f).1 (inc8 x f).2 := by
  have hx := x.isLt
  refine ⟨by simp [inc8], ?_⟩
  simp only [inc8, CCR.nz_eq_signs, CCR.signs, byte_toInt, BitVec.toNat_add]
  congr 1
  rw [byte_beq, Bool.eq_iff_iff]
  simp only [decide_eq_true_eq, ne_eq]
  split <;> split <;> simp at * <;> omega

/-- DEC (R277). -/
theorem dec8_decrements (x : Byte) (f : CCR) : Decrements x f (dec8 x f).1 (dec8 x f).2 := by
  have hx := x.isLt
  refine ⟨by simp [dec8]; omega, ?_⟩
  simp only [dec8, CCR.nz_eq_signs, CCR.signs, byte_toInt, BitVec.toNat_sub]
  congr 1
  rw [byte_beq, Bool.eq_iff_iff]
  simp only [decide_eq_true_eq, ne_eq]
  split <;> split <;> simp at * <;> omega

/-- NEG (R332). -/
theorem neg8_negates (x : Byte) (f : CCR) : Negates x f (neg8 x f).1 (neg8 x f).2 := by
  have hx := x.isLt
  have hr : (0 - x : Byte).toNat = (256 - x.toNat) % 256 := by simp
  refine ⟨by simp only [neg8]; omega, ?_⟩
  simp only [neg8, CCR.nz_eq_signs, CCR.signs, byte_toInt]
  congr 1
  · rw [byte_beq, Bool.eq_iff_iff]
    have h80 : (128 : Byte).toNat = 128 := rfl
    simp only [decide_eq_true_eq, ne_eq, h80]
    split <;> split <;> omega
  · rw [bne, byte_beq, Bool.eq_iff_iff]
    have h0 : (0 : Byte).toNat = 0 := rfl
    simp only [decide_eq_true_eq, ne_eq, Bool.not_eq_true', decide_eq_false_iff_not, h0]
    omega

/-- COM (R270). -/
theorem com8_complements (x : Byte) (f : CCR) : Complements x f (com8 x f).1 (com8 x f).2 := by
  refine ⟨by simp [com8, BitVec.toNat_not], ?_⟩
  simp only [com8, CCR.nz_eq_signs]
  rfl

/-- ASL of a byte (R139). -/
theorem asl_shiftsLeft (x : Byte) (f : CCR) : ShiftsLeft x f (asl x f).1 (asl x f).2 := by
  have hx := x.isLt
  refine ⟨by simp [asl, BitVec.toNat_shiftLeft, Nat.shiftLeft_eq]; omega, ?_⟩
  simp only [asl, CCR.shifted_eq_shiftSigns, BitVec.msb_eq_decide]

/-- ASL of D (R139). -/
theorem asl_word (x : Word) (f : CCR) :
    (asl x f).1.toNat = 2 * x.toNat % 65536 ∧
    (asl x f).2 = f.shiftSigns (asl x f).1 (decide (32768 ≤ x.toNat)) := by
  have hx := x.isLt
  refine ⟨by simp [asl, BitVec.toNat_shiftLeft, Nat.shiftLeft_eq]; omega, ?_⟩
  simp only [asl, CCR.shifted_eq_shiftSigns, bit15_eq]

/-- ASR of a byte (R139). -/
theorem asr8_halvesSigned (x : Byte) (f : CCR) : HalvesSigned x f (asr8 x f).1 (asr8 x f).2 := by
  refine ⟨?_, ?_⟩
  · simp only [asr8, BitVec.toInt_sshiftRight, Int.shiftRight_eq_div_pow]
    rfl
  · simp only [asr8, CCR.shifted_eq_shiftSigns, bit0_eq]

/-- LSR of a byte (R139). -/
theorem lsr_halvesUnsigned (x : Byte) (f : CCR) :
    HalvesUnsigned x f (lsr x f).1 (lsr x f).2 := by
  refine ⟨?_, ?_⟩
  · simp [lsr, BitVec.toNat_ushiftRight, Nat.shiftRight_eq_div_pow]
  · simp only [lsr, CCR.shifted_eq_shiftSigns, bit0_eq]

/-- LSR of D (R139). -/
theorem lsr_word (x : Word) (f : CCR) :
    (lsr x f).1.toNat = x.toNat / 2 ∧
    (lsr x f).2 = f.shiftSigns (lsr x f).1 (decide (x.toNat % 2 = 1)) := by
  refine ⟨?_, ?_⟩
  · simp [lsr, BitVec.toNat_ushiftRight, Nat.shiftRight_eq_div_pow]
  · have h0 : x.getLsbD 0 = decide (x.toNat % 2 = 1) := by
      rw [BitVec.getLsbD, Nat.testBit_eq_decide_div_mod_eq]
      simp
    simp only [lsr, CCR.shifted_eq_shiftSigns, h0]

/-- ROL of a byte (R139). -/
theorem rol8_rotatesLeft (x : Byte) (f : CCR) : RotatesLeft x f (rol8 x f).1 (rol8 x f).2 := by
  have hx := x.isLt
  refine ⟨?_, ?_⟩
  · have hc : (BitVec.ofBool f.c).toNat = carryNat f.c := by cases f.c <;> rfl
    have hc1 : carryNat f.c < 2 ^ 1 := by cases f.c <;> decide
    simp only [rol8, BitVec.toNat_append, hc, BitVec.extractLsb'_toNat, Nat.shiftRight_zero]
    rw [← Nat.shiftLeft_add_eq_or_of_lt hc1, Nat.shiftLeft_eq]
    omega
  · simp only [rol8, CCR.shifted_eq_shiftSigns, BitVec.msb_eq_decide]

/-- ROR of a byte (R139). -/
theorem ror8_rotatesRight (x : Byte) (f : CCR) : RotatesRight x f (ror8 x f).1 (ror8 x f).2 := by
  have hx := x.isLt
  refine ⟨?_, ?_⟩
  · have hc : (BitVec.ofBool f.c).toNat = carryNat f.c := by cases f.c <;> rfl
    simp only [ror8, BitVec.toNat_append, hc, BitVec.extractLsb'_toNat, Nat.shiftRight_eq_div_pow]
    rw [← Nat.shiftLeft_add_eq_or_of_lt (Nat.mod_lt _ (by decide)), Nat.shiftLeft_eq]
    omega
  · simp only [ror8, CCR.shifted_eq_shiftSigns, bit0_eq]

end Sys2Proof.Machine
end

