-- ==== Sys2Proof/Laws/State.lean ====
section
/-! SUPPORT. The small lemmas of the register updates: what each field is after each update, true by `rfl`,
and that no register update changes what memory reads. -/

namespace Sys2Proof.Machine

/-! ### What a read depends on -/

theorem State.reading_congr {s t : State} (mem : s.mem = t.mem) (devices : s.devices = t.devices)
    (config : s.config = t.config) (c : Word) :
    (s.reading c).mem = (t.reading c).mem ∧ (s.reading c).devices = (t.reading c).devices ∧
      (s.reading c).config = (t.reading c).config := by
  have hk : s.readAct c = t.readAct c := by
    rw [State.readAct, State.readAct, State.kindAt, State.kindAt, State.still, State.still, config, devices]
  simp [State.reading, State.acted, hk, mem, config]

theorem State.readByte_congr {s t : State} (mem : s.mem = t.mem) (devices : s.devices = t.devices)
    (config : s.config = t.config) (draws : s.draws = t.draws) (c : Word) : s.readByte c = t.readByte c := by
  unfold State.readByte State.kindAt
  rw [mem, devices, config, draws]

theorem State.readWord_congr {s t : State} (mem : s.mem = t.mem) (devices : s.devices = t.devices)
    (config : s.config = t.config) (draws : s.draws = t.draws) (c : Word) : s.readWord c = t.readWord c := by
  obtain ⟨h1, h2, h3⟩ := State.reading_congr mem devices config c
  rw [State.readWord, State.readWord, State.readByte_congr mem devices config draws,
    State.readByte_congr h1 h2 h3 draws]

/-- An update that looks neither at the cells nor at the devices may be made before a read or after it. -/
theorem State.reading_update {s : State} (f : State → State)
    (h : ∀ u, (f u).devices = u.devices ∧ (f u).config = u.config)
    (h' : ∀ u d, (f u).acted d = f (u.acted d)) (c : Word) : (f s).reading c = f (s.reading c) := by
  have hk : (f s).readAct c = s.readAct c := by
    rw [State.readAct, State.readAct, State.kindAt, State.kindAt, State.still, State.still, (h s).1, (h s).2]
  rw [State.reading, hk, h']
  rfl

/-! ### setA -/

@[simp] theorem State.setA_a (s : State) (v : Byte) : (s.setA v).a = v := rfl
@[simp] theorem State.setA_b (s : State) (v : Byte) : (s.setA v).b = s.b := rfl
@[simp] theorem State.setA_ix (s : State) (v : Byte) : (s.setA v).ix = s.ix := rfl
@[simp] theorem State.setA_iy (s : State) (v : Byte) : (s.setA v).iy = s.iy := rfl
@[simp] theorem State.setA_sp (s : State) (v : Byte) : (s.setA v).sp = s.sp := rfl
@[simp] theorem State.setA_pc (s : State) (v : Byte) : (s.setA v).pc = s.pc := rfl
@[simp] theorem State.setA_ccr (s : State) (v : Byte) : (s.setA v).ccr = s.ccr := rfl
@[simp] theorem State.setA_run (s : State) (v : Byte) : (s.setA v).run = s.run := rfl
@[simp] theorem State.setA_iDelay (s : State) (v : Byte) : (s.setA v).iDelay = s.iDelay := rfl
@[simp] theorem State.setA_mem (s : State) (v : Byte) : (s.setA v).mem = s.mem := rfl
@[simp] theorem State.setA_devices (s : State) (v : Byte) : (s.setA v).devices = s.devices := rfl
@[simp] theorem State.setA_config (s : State) (v : Byte) : (s.setA v).config = s.config := rfl
@[simp] theorem State.setA_oracle (s : State) (v : Byte) : (s.setA v).oracle = s.oracle := rfl
@[simp] theorem State.setA_draws (s : State) (v : Byte) : (s.setA v).draws = s.draws := rfl
@[simp] theorem State.setA_kindAt (s : State) (v : Byte) (c : Word) :
    (s.setA v).kindAt c = s.kindAt c := rfl
@[simp] theorem State.setA_readByte (s : State) (v : Byte) (c : Word) :
    (s.setA v).readByte c = s.readByte c := rfl
@[simp] theorem State.setA_fetchByte (s : State) (v : Byte) (c : Word) :
    (s.setA v).fetchByte c = s.fetchByte c := rfl
@[simp] theorem State.setA_readWord (s : State) (v : Byte) (c : Word) :
    (s.setA v).readWord c = s.readWord c := by
  apply State.readWord_congr <;> rfl
theorem State.setA_reading (s : State) (v : Byte) (c : Word) :
    (s.setA v).reading c = (s.reading c).setA v :=
  State.reading_update (·.setA v) (fun _ => ⟨rfl, rfl⟩) (fun _ _ => rfl) c

/-! ### setB -/

@[simp] theorem State.setB_a (s : State) (v : Byte) : (s.setB v).a = s.a := rfl
@[simp] theorem State.setB_b (s : State) (v : Byte) : (s.setB v).b = v := rfl
@[simp] theorem State.setB_ix (s : State) (v : Byte) : (s.setB v).ix = s.ix := rfl
@[simp] theorem State.setB_iy (s : State) (v : Byte) : (s.setB v).iy = s.iy := rfl
@[simp] theorem State.setB_sp (s : State) (v : Byte) : (s.setB v).sp = s.sp := rfl
@[simp] theorem State.setB_pc (s : State) (v : Byte) : (s.setB v).pc = s.pc := rfl
@[simp] theorem State.setB_ccr (s : State) (v : Byte) : (s.setB v).ccr = s.ccr := rfl
@[simp] theorem State.setB_run (s : State) (v : Byte) : (s.setB v).run = s.run := rfl
@[simp] theorem State.setB_iDelay (s : State) (v : Byte) : (s.setB v).iDelay = s.iDelay := rfl
@[simp] theorem State.setB_mem (s : State) (v : Byte) : (s.setB v).mem = s.mem := rfl
@[simp] theorem State.setB_devices (s : State) (v : Byte) : (s.setB v).devices = s.devices := rfl
@[simp] theorem State.setB_config (s : State) (v : Byte) : (s.setB v).config = s.config := rfl
@[simp] theorem State.setB_oracle (s : State) (v : Byte) : (s.setB v).oracle = s.oracle := rfl
@[simp] theorem State.setB_draws (s : State) (v : Byte) : (s.setB v).draws = s.draws := rfl
@[simp] theorem State.setB_kindAt (s : State) (v : Byte) (c : Word) :
    (s.setB v).kindAt c = s.kindAt c := rfl
@[simp] theorem State.setB_readByte (s : State) (v : Byte) (c : Word) :
    (s.setB v).readByte c = s.readByte c := rfl
@[simp] theorem State.setB_fetchByte (s : State) (v : Byte) (c : Word) :
    (s.setB v).fetchByte c = s.fetchByte c := rfl
@[simp] theorem State.setB_readWord (s : State) (v : Byte) (c : Word) :
    (s.setB v).readWord c = s.readWord c := by
  apply State.readWord_congr <;> rfl
theorem State.setB_reading (s : State) (v : Byte) (c : Word) :
    (s.setB v).reading c = (s.reading c).setB v :=
  State.reading_update (·.setB v) (fun _ => ⟨rfl, rfl⟩) (fun _ _ => rfl) c

/-! ### setD -/

@[simp] theorem State.setD_a (s : State) (v : Word) : (s.setD v).a = highByte v := rfl
@[simp] theorem State.setD_b (s : State) (v : Word) : (s.setD v).b = lowByte v := rfl
@[simp] theorem State.setD_ix (s : State) (v : Word) : (s.setD v).ix = s.ix := rfl
@[simp] theorem State.setD_iy (s : State) (v : Word) : (s.setD v).iy = s.iy := rfl
@[simp] theorem State.setD_sp (s : State) (v : Word) : (s.setD v).sp = s.sp := rfl
@[simp] theorem State.setD_pc (s : State) (v : Word) : (s.setD v).pc = s.pc := rfl
@[simp] theorem State.setD_ccr (s : State) (v : Word) : (s.setD v).ccr = s.ccr := rfl
@[simp] theorem State.setD_run (s : State) (v : Word) : (s.setD v).run = s.run := rfl
@[simp] theorem State.setD_iDelay (s : State) (v : Word) : (s.setD v).iDelay = s.iDelay := rfl
@[simp] theorem State.setD_mem (s : State) (v : Word) : (s.setD v).mem = s.mem := rfl
@[simp] theorem State.setD_devices (s : State) (v : Word) : (s.setD v).devices = s.devices := rfl
@[simp] theorem State.setD_config (s : State) (v : Word) : (s.setD v).config = s.config := rfl
@[simp] theorem State.setD_oracle (s : State) (v : Word) : (s.setD v).oracle = s.oracle := rfl
@[simp] theorem State.setD_draws (s : State) (v : Word) : (s.setD v).draws = s.draws := rfl
@[simp] theorem State.setD_kindAt (s : State) (v : Word) (c : Word) :
    (s.setD v).kindAt c = s.kindAt c := rfl
@[simp] theorem State.setD_readByte (s : State) (v : Word) (c : Word) :
    (s.setD v).readByte c = s.readByte c := rfl
@[simp] theorem State.setD_fetchByte (s : State) (v : Word) (c : Word) :
    (s.setD v).fetchByte c = s.fetchByte c := rfl
@[simp] theorem State.setD_readWord (s : State) (v : Word) (c : Word) :
    (s.setD v).readWord c = s.readWord c := by
  apply State.readWord_congr <;> rfl
theorem State.setD_reading (s : State) (v : Word) (c : Word) :
    (s.setD v).reading c = (s.reading c).setD v :=
  State.reading_update (·.setD v) (fun _ => ⟨rfl, rfl⟩) (fun _ _ => rfl) c

/-! ### setIX -/

@[simp] theorem State.setIX_a (s : State) (v : Word) : (s.setIX v).a = s.a := rfl
@[simp] theorem State.setIX_b (s : State) (v : Word) : (s.setIX v).b = s.b := rfl
@[simp] theorem State.setIX_ix (s : State) (v : Word) : (s.setIX v).ix = v := rfl
@[simp] theorem State.setIX_iy (s : State) (v : Word) : (s.setIX v).iy = s.iy := rfl
@[simp] theorem State.setIX_sp (s : State) (v : Word) : (s.setIX v).sp = s.sp := rfl
@[simp] theorem State.setIX_pc (s : State) (v : Word) : (s.setIX v).pc = s.pc := rfl
@[simp] theorem State.setIX_ccr (s : State) (v : Word) : (s.setIX v).ccr = s.ccr := rfl
@[simp] theorem State.setIX_run (s : State) (v : Word) : (s.setIX v).run = s.run := rfl
@[simp] theorem State.setIX_iDelay (s : State) (v : Word) : (s.setIX v).iDelay = s.iDelay := rfl
@[simp] theorem State.setIX_mem (s : State) (v : Word) : (s.setIX v).mem = s.mem := rfl
@[simp] theorem State.setIX_devices (s : State) (v : Word) : (s.setIX v).devices = s.devices := rfl
@[simp] theorem State.setIX_config (s : State) (v : Word) : (s.setIX v).config = s.config := rfl
@[simp] theorem State.setIX_oracle (s : State) (v : Word) : (s.setIX v).oracle = s.oracle := rfl
@[simp] theorem State.setIX_draws (s : State) (v : Word) : (s.setIX v).draws = s.draws := rfl
@[simp] theorem State.setIX_kindAt (s : State) (v : Word) (c : Word) :
    (s.setIX v).kindAt c = s.kindAt c := rfl
@[simp] theorem State.setIX_readByte (s : State) (v : Word) (c : Word) :
    (s.setIX v).readByte c = s.readByte c := rfl
@[simp] theorem State.setIX_fetchByte (s : State) (v : Word) (c : Word) :
    (s.setIX v).fetchByte c = s.fetchByte c := rfl
@[simp] theorem State.setIX_readWord (s : State) (v : Word) (c : Word) :
    (s.setIX v).readWord c = s.readWord c := by
  apply State.readWord_congr <;> rfl
theorem State.setIX_reading (s : State) (v : Word) (c : Word) :
    (s.setIX v).reading c = (s.reading c).setIX v :=
  State.reading_update (·.setIX v) (fun _ => ⟨rfl, rfl⟩) (fun _ _ => rfl) c

/-! ### setIY -/

@[simp] theorem State.setIY_a (s : State) (v : Word) : (s.setIY v).a = s.a := rfl
@[simp] theorem State.setIY_b (s : State) (v : Word) : (s.setIY v).b = s.b := rfl
@[simp] theorem State.setIY_ix (s : State) (v : Word) : (s.setIY v).ix = s.ix := rfl
@[simp] theorem State.setIY_iy (s : State) (v : Word) : (s.setIY v).iy = v := rfl
@[simp] theorem State.setIY_sp (s : State) (v : Word) : (s.setIY v).sp = s.sp := rfl
@[simp] theorem State.setIY_pc (s : State) (v : Word) : (s.setIY v).pc = s.pc := rfl
@[simp] theorem State.setIY_ccr (s : State) (v : Word) : (s.setIY v).ccr = s.ccr := rfl
@[simp] theorem State.setIY_run (s : State) (v : Word) : (s.setIY v).run = s.run := rfl
@[simp] theorem State.setIY_iDelay (s : State) (v : Word) : (s.setIY v).iDelay = s.iDelay := rfl
@[simp] theorem State.setIY_mem (s : State) (v : Word) : (s.setIY v).mem = s.mem := rfl
@[simp] theorem State.setIY_devices (s : State) (v : Word) : (s.setIY v).devices = s.devices := rfl
@[simp] theorem State.setIY_config (s : State) (v : Word) : (s.setIY v).config = s.config := rfl
@[simp] theorem State.setIY_oracle (s : State) (v : Word) : (s.setIY v).oracle = s.oracle := rfl
@[simp] theorem State.setIY_draws (s : State) (v : Word) : (s.setIY v).draws = s.draws := rfl
@[simp] theorem State.setIY_kindAt (s : State) (v : Word) (c : Word) :
    (s.setIY v).kindAt c = s.kindAt c := rfl
@[simp] theorem State.setIY_readByte (s : State) (v : Word) (c : Word) :
    (s.setIY v).readByte c = s.readByte c := rfl
@[simp] theorem State.setIY_fetchByte (s : State) (v : Word) (c : Word) :
    (s.setIY v).fetchByte c = s.fetchByte c := rfl
@[simp] theorem State.setIY_readWord (s : State) (v : Word) (c : Word) :
    (s.setIY v).readWord c = s.readWord c := by
  apply State.readWord_congr <;> rfl
theorem State.setIY_reading (s : State) (v : Word) (c : Word) :
    (s.setIY v).reading c = (s.reading c).setIY v :=
  State.reading_update (·.setIY v) (fun _ => ⟨rfl, rfl⟩) (fun _ _ => rfl) c

/-! ### setSP -/

@[simp] theorem State.setSP_a (s : State) (v : Word) : (s.setSP v).a = s.a := rfl
@[simp] theorem State.setSP_b (s : State) (v : Word) : (s.setSP v).b = s.b := rfl
@[simp] theorem State.setSP_ix (s : State) (v : Word) : (s.setSP v).ix = s.ix := rfl
@[simp] theorem State.setSP_iy (s : State) (v : Word) : (s.setSP v).iy = s.iy := rfl
@[simp] theorem State.setSP_sp (s : State) (v : Word) : (s.setSP v).sp = v := rfl
@[simp] theorem State.setSP_pc (s : State) (v : Word) : (s.setSP v).pc = s.pc := rfl
@[simp] theorem State.setSP_ccr (s : State) (v : Word) : (s.setSP v).ccr = s.ccr := rfl
@[simp] theorem State.setSP_run (s : State) (v : Word) : (s.setSP v).run = s.run := rfl
@[simp] theorem State.setSP_iDelay (s : State) (v : Word) : (s.setSP v).iDelay = s.iDelay := rfl
@[simp] theorem State.setSP_mem (s : State) (v : Word) : (s.setSP v).mem = s.mem := rfl
@[simp] theorem State.setSP_devices (s : State) (v : Word) : (s.setSP v).devices = s.devices := rfl
@[simp] theorem State.setSP_config (s : State) (v : Word) : (s.setSP v).config = s.config := rfl
@[simp] theorem State.setSP_oracle (s : State) (v : Word) : (s.setSP v).oracle = s.oracle := rfl
@[simp] theorem State.setSP_draws (s : State) (v : Word) : (s.setSP v).draws = s.draws := rfl
@[simp] theorem State.setSP_kindAt (s : State) (v : Word) (c : Word) :
    (s.setSP v).kindAt c = s.kindAt c := rfl
@[simp] theorem State.setSP_readByte (s : State) (v : Word) (c : Word) :
    (s.setSP v).readByte c = s.readByte c := rfl
@[simp] theorem State.setSP_fetchByte (s : State) (v : Word) (c : Word) :
    (s.setSP v).fetchByte c = s.fetchByte c := rfl
@[simp] theorem State.setSP_readWord (s : State) (v : Word) (c : Word) :
    (s.setSP v).readWord c = s.readWord c := by
  apply State.readWord_congr <;> rfl
theorem State.setSP_reading (s : State) (v : Word) (c : Word) :
    (s.setSP v).reading c = (s.reading c).setSP v :=
  State.reading_update (·.setSP v) (fun _ => ⟨rfl, rfl⟩) (fun _ _ => rfl) c

/-! ### setPC -/

@[simp] theorem State.setPC_a (s : State) (v : Word) : (s.setPC v).a = s.a := rfl
@[simp] theorem State.setPC_b (s : State) (v : Word) : (s.setPC v).b = s.b := rfl
@[simp] theorem State.setPC_ix (s : State) (v : Word) : (s.setPC v).ix = s.ix := rfl
@[simp] theorem State.setPC_iy (s : State) (v : Word) : (s.setPC v).iy = s.iy := rfl
@[simp] theorem State.setPC_sp (s : State) (v : Word) : (s.setPC v).sp = s.sp := rfl
@[simp] theorem State.setPC_pc (s : State) (v : Word) : (s.setPC v).pc = v := rfl
@[simp] theorem State.setPC_ccr (s : State) (v : Word) : (s.setPC v).ccr = s.ccr := rfl
@[simp] theorem State.setPC_run (s : State) (v : Word) : (s.setPC v).run = s.run := rfl
@[simp] theorem State.setPC_iDelay (s : State) (v : Word) : (s.setPC v).iDelay = s.iDelay := rfl
@[simp] theorem State.setPC_mem (s : State) (v : Word) : (s.setPC v).mem = s.mem := rfl
@[simp] theorem State.setPC_devices (s : State) (v : Word) : (s.setPC v).devices = s.devices := rfl
@[simp] theorem State.setPC_config (s : State) (v : Word) : (s.setPC v).config = s.config := rfl
@[simp] theorem State.setPC_oracle (s : State) (v : Word) : (s.setPC v).oracle = s.oracle := rfl
@[simp] theorem State.setPC_draws (s : State) (v : Word) : (s.setPC v).draws = s.draws := rfl
@[simp] theorem State.setPC_kindAt (s : State) (v : Word) (c : Word) :
    (s.setPC v).kindAt c = s.kindAt c := rfl
@[simp] theorem State.setPC_readByte (s : State) (v : Word) (c : Word) :
    (s.setPC v).readByte c = s.readByte c := rfl
@[simp] theorem State.setPC_fetchByte (s : State) (v : Word) (c : Word) :
    (s.setPC v).fetchByte c = s.fetchByte c := rfl
@[simp] theorem State.setPC_readWord (s : State) (v : Word) (c : Word) :
    (s.setPC v).readWord c = s.readWord c := by
  apply State.readWord_congr <;> rfl
theorem State.setPC_reading (s : State) (v : Word) (c : Word) :
    (s.setPC v).reading c = (s.reading c).setPC v :=
  State.reading_update (·.setPC v) (fun _ => ⟨rfl, rfl⟩) (fun _ _ => rfl) c

/-! ### setCCR -/

@[simp] theorem State.setCCR_a (s : State) (f : CCR) : (s.setCCR f).a = s.a := rfl
@[simp] theorem State.setCCR_b (s : State) (f : CCR) : (s.setCCR f).b = s.b := rfl
@[simp] theorem State.setCCR_ix (s : State) (f : CCR) : (s.setCCR f).ix = s.ix := rfl
@[simp] theorem State.setCCR_iy (s : State) (f : CCR) : (s.setCCR f).iy = s.iy := rfl
@[simp] theorem State.setCCR_sp (s : State) (f : CCR) : (s.setCCR f).sp = s.sp := rfl
@[simp] theorem State.setCCR_pc (s : State) (f : CCR) : (s.setCCR f).pc = s.pc := rfl
@[simp] theorem State.setCCR_ccr (s : State) (f : CCR) : (s.setCCR f).ccr = f := rfl
@[simp] theorem State.setCCR_run (s : State) (f : CCR) : (s.setCCR f).run = s.run := rfl
@[simp] theorem State.setCCR_iDelay (s : State) (f : CCR) : (s.setCCR f).iDelay = s.iDelay := rfl
@[simp] theorem State.setCCR_mem (s : State) (f : CCR) : (s.setCCR f).mem = s.mem := rfl
@[simp] theorem State.setCCR_devices (s : State) (f : CCR) : (s.setCCR f).devices = s.devices := rfl
@[simp] theorem State.setCCR_config (s : State) (f : CCR) : (s.setCCR f).config = s.config := rfl
@[simp] theorem State.setCCR_oracle (s : State) (f : CCR) : (s.setCCR f).oracle = s.oracle := rfl
@[simp] theorem State.setCCR_draws (s : State) (f : CCR) : (s.setCCR f).draws = s.draws := rfl
@[simp] theorem State.setCCR_kindAt (s : State) (f : CCR) (c : Word) :
    (s.setCCR f).kindAt c = s.kindAt c := rfl
@[simp] theorem State.setCCR_readByte (s : State) (f : CCR) (c : Word) :
    (s.setCCR f).readByte c = s.readByte c := rfl
@[simp] theorem State.setCCR_fetchByte (s : State) (f : CCR) (c : Word) :
    (s.setCCR f).fetchByte c = s.fetchByte c := rfl
@[simp] theorem State.setCCR_readWord (s : State) (f : CCR) (c : Word) :
    (s.setCCR f).readWord c = s.readWord c := by
  apply State.readWord_congr <;> rfl
theorem State.setCCR_reading (s : State) (f : CCR) (c : Word) :
    (s.setCCR f).reading c = (s.reading c).setCCR f :=
  State.reading_update (·.setCCR f) (fun _ => ⟨rfl, rfl⟩) (fun _ _ => rfl) c

/-! ### setRun -/

@[simp] theorem State.setRun_a (s : State) (v : RunState) : (s.setRun v).a = s.a := rfl
@[simp] theorem State.setRun_b (s : State) (v : RunState) : (s.setRun v).b = s.b := rfl
@[simp] theorem State.setRun_ix (s : State) (v : RunState) : (s.setRun v).ix = s.ix := rfl
@[simp] theorem State.setRun_iy (s : State) (v : RunState) : (s.setRun v).iy = s.iy := rfl
@[simp] theorem State.setRun_sp (s : State) (v : RunState) : (s.setRun v).sp = s.sp := rfl
@[simp] theorem State.setRun_pc (s : State) (v : RunState) : (s.setRun v).pc = s.pc := rfl
@[simp] theorem State.setRun_ccr (s : State) (v : RunState) : (s.setRun v).ccr = s.ccr := rfl
@[simp] theorem State.setRun_run (s : State) (v : RunState) : (s.setRun v).run = v := rfl
@[simp] theorem State.setRun_iDelay (s : State) (v : RunState) : (s.setRun v).iDelay = s.iDelay := rfl
@[simp] theorem State.setRun_mem (s : State) (v : RunState) : (s.setRun v).mem = s.mem := rfl
@[simp] theorem State.setRun_devices (s : State) (v : RunState) : (s.setRun v).devices = s.devices := rfl
@[simp] theorem State.setRun_config (s : State) (v : RunState) : (s.setRun v).config = s.config := rfl
@[simp] theorem State.setRun_oracle (s : State) (v : RunState) : (s.setRun v).oracle = s.oracle := rfl
@[simp] theorem State.setRun_draws (s : State) (v : RunState) : (s.setRun v).draws = s.draws := rfl
@[simp] theorem State.setRun_kindAt (s : State) (v : RunState) (c : Word) :
    (s.setRun v).kindAt c = s.kindAt c := rfl
@[simp] theorem State.setRun_readByte (s : State) (v : RunState) (c : Word) :
    (s.setRun v).readByte c = s.readByte c := rfl
@[simp] theorem State.setRun_fetchByte (s : State) (v : RunState) (c : Word) :
    (s.setRun v).fetchByte c = s.fetchByte c := rfl
@[simp] theorem State.setRun_readWord (s : State) (v : RunState) (c : Word) :
    (s.setRun v).readWord c = s.readWord c := by
  apply State.readWord_congr <;> rfl
theorem State.setRun_reading (s : State) (v : RunState) (c : Word) :
    (s.setRun v).reading c = (s.reading c).setRun v :=
  State.reading_update (·.setRun v) (fun _ => ⟨rfl, rfl⟩) (fun _ _ => rfl) c

/-! ### setDelay -/

@[simp] theorem State.setDelay_a (s : State) (v : Bool) : (s.setDelay v).a = s.a := rfl
@[simp] theorem State.setDelay_b (s : State) (v : Bool) : (s.setDelay v).b = s.b := rfl
@[simp] theorem State.setDelay_ix (s : State) (v : Bool) : (s.setDelay v).ix = s.ix := rfl
@[simp] theorem State.setDelay_iy (s : State) (v : Bool) : (s.setDelay v).iy = s.iy := rfl
@[simp] theorem State.setDelay_sp (s : State) (v : Bool) : (s.setDelay v).sp = s.sp := rfl
@[simp] theorem State.setDelay_pc (s : State) (v : Bool) : (s.setDelay v).pc = s.pc := rfl
@[simp] theorem State.setDelay_ccr (s : State) (v : Bool) : (s.setDelay v).ccr = s.ccr := rfl
@[simp] theorem State.setDelay_run (s : State) (v : Bool) : (s.setDelay v).run = s.run := rfl
@[simp] theorem State.setDelay_iDelay (s : State) (v : Bool) : (s.setDelay v).iDelay = v := rfl
@[simp] theorem State.setDelay_mem (s : State) (v : Bool) : (s.setDelay v).mem = s.mem := rfl
@[simp] theorem State.setDelay_devices (s : State) (v : Bool) : (s.setDelay v).devices = s.devices := rfl
@[simp] theorem State.setDelay_config (s : State) (v : Bool) : (s.setDelay v).config = s.config := rfl
@[simp] theorem State.setDelay_oracle (s : State) (v : Bool) : (s.setDelay v).oracle = s.oracle := rfl
@[simp] theorem State.setDelay_draws (s : State) (v : Bool) : (s.setDelay v).draws = s.draws := rfl
@[simp] theorem State.setDelay_kindAt (s : State) (v : Bool) (c : Word) :
    (s.setDelay v).kindAt c = s.kindAt c := rfl
@[simp] theorem State.setDelay_readByte (s : State) (v : Bool) (c : Word) :
    (s.setDelay v).readByte c = s.readByte c := rfl
@[simp] theorem State.setDelay_fetchByte (s : State) (v : Bool) (c : Word) :
    (s.setDelay v).fetchByte c = s.fetchByte c := rfl
@[simp] theorem State.setDelay_readWord (s : State) (v : Bool) (c : Word) :
    (s.setDelay v).readWord c = s.readWord c := by
  apply State.readWord_congr <;> rfl
theorem State.setDelay_reading (s : State) (v : Bool) (c : Word) :
    (s.setDelay v).reading c = (s.reading c).setDelay v :=
  State.reading_update (·.setDelay v) (fun _ => ⟨rfl, rfl⟩) (fun _ _ => rfl) c

/-! ### advance -/

@[simp] theorem State.advance_a (s : State) (k : Nat) : (s.advance k).a = s.a := rfl
@[simp] theorem State.advance_b (s : State) (k : Nat) : (s.advance k).b = s.b := rfl
@[simp] theorem State.advance_ix (s : State) (k : Nat) : (s.advance k).ix = s.ix := rfl
@[simp] theorem State.advance_iy (s : State) (k : Nat) : (s.advance k).iy = s.iy := rfl
@[simp] theorem State.advance_sp (s : State) (k : Nat) : (s.advance k).sp = s.sp := rfl
@[simp] theorem State.advance_pc (s : State) (k : Nat) : (s.advance k).pc = s.pc + BitVec.ofNat 16 k := rfl
@[simp] theorem State.advance_ccr (s : State) (k : Nat) : (s.advance k).ccr = s.ccr := rfl
@[simp] theorem State.advance_run (s : State) (k : Nat) : (s.advance k).run = s.run := rfl
@[simp] theorem State.advance_iDelay (s : State) (k : Nat) : (s.advance k).iDelay = false := rfl
@[simp] theorem State.advance_mem (s : State) (k : Nat) : (s.advance k).mem = s.mem := rfl
@[simp] theorem State.advance_devices (s : State) (k : Nat) : (s.advance k).devices = s.devices := rfl
@[simp] theorem State.advance_config (s : State) (k : Nat) : (s.advance k).config = s.config := rfl
@[simp] theorem State.advance_oracle (s : State) (k : Nat) : (s.advance k).oracle = s.oracle := rfl
@[simp] theorem State.advance_draws (s : State) (k : Nat) : (s.advance k).draws = s.draws := rfl
@[simp] theorem State.advance_kindAt (s : State) (k : Nat) (c : Word) :
    (s.advance k).kindAt c = s.kindAt c := rfl
@[simp] theorem State.advance_readByte (s : State) (k : Nat) (c : Word) :
    (s.advance k).readByte c = s.readByte c := rfl
@[simp] theorem State.advance_fetchByte (s : State) (k : Nat) (c : Word) :
    (s.advance k).fetchByte c = s.fetchByte c := rfl
@[simp] theorem State.advance_readWord (s : State) (k : Nat) (c : Word) :
    (s.advance k).readWord c = s.readWord c := by
  apply State.readWord_congr <;> rfl
theorem State.advance_reading (s : State) (k : Nat) (c : Word) :
    (s.advance k).reading c = (s.reading c).advance k :=
  State.reading_update (·.advance k) (fun _ => ⟨rfl, rfl⟩) (fun _ _ => rfl) c

/-! ### Devices acting, and reads: memory and the devices are all that can change -/

@[simp] theorem State.acted_a (s : State) (d : DeviceAct) : (s.acted d).a = s.a := rfl
@[simp] theorem State.acted_b (s : State) (d : DeviceAct) : (s.acted d).b = s.b := rfl
@[simp] theorem State.acted_ix (s : State) (d : DeviceAct) : (s.acted d).ix = s.ix := rfl
@[simp] theorem State.acted_iy (s : State) (d : DeviceAct) : (s.acted d).iy = s.iy := rfl
@[simp] theorem State.acted_sp (s : State) (d : DeviceAct) : (s.acted d).sp = s.sp := rfl
@[simp] theorem State.acted_pc (s : State) (d : DeviceAct) : (s.acted d).pc = s.pc := rfl
@[simp] theorem State.acted_ccr (s : State) (d : DeviceAct) : (s.acted d).ccr = s.ccr := rfl
@[simp] theorem State.acted_run (s : State) (d : DeviceAct) : (s.acted d).run = s.run := rfl
@[simp] theorem State.acted_iDelay (s : State) (d : DeviceAct) : (s.acted d).iDelay = s.iDelay := rfl
@[simp] theorem State.acted_mem (s : State) (d : DeviceAct) : (s.acted d).mem =
    deviceStores s.config.platform s.mem d.stores := rfl
@[simp] theorem State.acted_devices (s : State) (d : DeviceAct) : (s.acted d).devices = d.state := rfl
@[simp] theorem State.acted_config (s : State) (d : DeviceAct) : (s.acted d).config = s.config := rfl
@[simp] theorem State.acted_oracle (s : State) (d : DeviceAct) : (s.acted d).oracle = s.oracle := rfl
@[simp] theorem State.acted_draws (s : State) (d : DeviceAct) : (s.acted d).draws = s.draws := rfl
@[simp] theorem State.acted_kindAt (s : State) (d : DeviceAct) (c : Word) :
    (s.acted d).kindAt c = s.kindAt c := rfl

/-- A read at an address with no device changes nothing (R62). -/
theorem State.reading_plain {s : State} {a : Word} (h : s.kindAt a ≠ .device) : s.reading a = s := by
  unfold State.reading State.readAct
  split <;> first | rfl | (next hk => exact absurd hk h)

/-- A read of a device cell has the effect that the read function of the devices says (R62). -/
theorem State.reading_device {s : State} {a : Word} (h : s.kindAt a = .device) :
    s.reading a = s.acted (Config.deviceRead s.devices a).act := by
  simp [State.reading, State.readAct, h]

@[simp] theorem State.reading_a (s : State) (x : Word) : (s.reading x).a = s.a := rfl
@[simp] theorem State.reading_b (s : State) (x : Word) : (s.reading x).b = s.b := rfl
@[simp] theorem State.reading_ix (s : State) (x : Word) : (s.reading x).ix = s.ix := rfl
@[simp] theorem State.reading_iy (s : State) (x : Word) : (s.reading x).iy = s.iy := rfl
@[simp] theorem State.reading_sp (s : State) (x : Word) : (s.reading x).sp = s.sp := rfl
@[simp] theorem State.reading_pc (s : State) (x : Word) : (s.reading x).pc = s.pc := rfl
@[simp] theorem State.reading_ccr (s : State) (x : Word) : (s.reading x).ccr = s.ccr := rfl
@[simp] theorem State.reading_run (s : State) (x : Word) : (s.reading x).run = s.run := rfl
@[simp] theorem State.reading_iDelay (s : State) (x : Word) : (s.reading x).iDelay = s.iDelay := rfl
@[simp] theorem State.reading_config (s : State) (x : Word) : (s.reading x).config = s.config := rfl
@[simp] theorem State.reading_oracle (s : State) (x : Word) : (s.reading x).oracle = s.oracle := rfl
@[simp] theorem State.reading_draws (s : State) (x : Word) : (s.reading x).draws = s.draws := rfl
@[simp] theorem State.reading_kindAt (s : State) (x : Word) (c : Word) :
    (s.reading x).kindAt c = s.kindAt c := rfl

@[simp] theorem State.readingWord_a (s : State) (x : Word) : (s.readingWord x).a = s.a := rfl
@[simp] theorem State.readingWord_b (s : State) (x : Word) : (s.readingWord x).b = s.b := rfl
@[simp] theorem State.readingWord_ix (s : State) (x : Word) : (s.readingWord x).ix = s.ix := rfl
@[simp] theorem State.readingWord_iy (s : State) (x : Word) : (s.readingWord x).iy = s.iy := rfl
@[simp] theorem State.readingWord_sp (s : State) (x : Word) : (s.readingWord x).sp = s.sp := rfl
@[simp] theorem State.readingWord_pc (s : State) (x : Word) : (s.readingWord x).pc = s.pc := rfl
@[simp] theorem State.readingWord_ccr (s : State) (x : Word) : (s.readingWord x).ccr = s.ccr := rfl
@[simp] theorem State.readingWord_run (s : State) (x : Word) : (s.readingWord x).run = s.run := rfl
@[simp] theorem State.readingWord_iDelay (s : State) (x : Word) : (s.readingWord x).iDelay = s.iDelay := rfl
@[simp] theorem State.readingWord_config (s : State) (x : Word) : (s.readingWord x).config = s.config := rfl
@[simp] theorem State.readingWord_oracle (s : State) (x : Word) : (s.readingWord x).oracle = s.oracle := rfl
@[simp] theorem State.readingWord_draws (s : State) (x : Word) : (s.readingWord x).draws = s.draws := rfl
@[simp] theorem State.readingWord_kindAt (s : State) (x : Word) (c : Word) :
    (s.readingWord x).kindAt c = s.kindAt c := rfl

@[simp] theorem State.readings_a (s : State) (l : List Word) : (s.readings l).a = s.a := by
  induction l generalizing s with
  | nil => rfl
  | cons x l ih => simp [State.readings, ih]
@[simp] theorem State.readings_b (s : State) (l : List Word) : (s.readings l).b = s.b := by
  induction l generalizing s with
  | nil => rfl
  | cons x l ih => simp [State.readings, ih]
@[simp] theorem State.readings_ix (s : State) (l : List Word) : (s.readings l).ix = s.ix := by
  induction l generalizing s with
  | nil => rfl
  | cons x l ih => simp [State.readings, ih]
@[simp] theorem State.readings_iy (s : State) (l : List Word) : (s.readings l).iy = s.iy := by
  induction l generalizing s with
  | nil => rfl
  | cons x l ih => simp [State.readings, ih]
@[simp] theorem State.readings_sp (s : State) (l : List Word) : (s.readings l).sp = s.sp := by
  induction l generalizing s with
  | nil => rfl
  | cons x l ih => simp [State.readings, ih]
@[simp] theorem State.readings_pc (s : State) (l : List Word) : (s.readings l).pc = s.pc := by
  induction l generalizing s with
  | nil => rfl
  | cons x l ih => simp [State.readings, ih]
@[simp] theorem State.readings_ccr (s : State) (l : List Word) : (s.readings l).ccr = s.ccr := by
  induction l generalizing s with
  | nil => rfl
  | cons x l ih => simp [State.readings, ih]
@[simp] theorem State.readings_run (s : State) (l : List Word) : (s.readings l).run = s.run := by
  induction l generalizing s with
  | nil => rfl
  | cons x l ih => simp [State.readings, ih]
@[simp] theorem State.readings_iDelay (s : State) (l : List Word) : (s.readings l).iDelay = s.iDelay := by
  induction l generalizing s with
  | nil => rfl
  | cons x l ih => simp [State.readings, ih]
@[simp] theorem State.readings_config (s : State) (l : List Word) : (s.readings l).config = s.config := by
  induction l generalizing s with
  | nil => rfl
  | cons x l ih => simp [State.readings, ih]
@[simp] theorem State.readings_oracle (s : State) (l : List Word) : (s.readings l).oracle = s.oracle := by
  induction l generalizing s with
  | nil => rfl
  | cons x l ih => simp [State.readings, ih]
@[simp] theorem State.readings_draws (s : State) (l : List Word) : (s.readings l).draws = s.draws := by
  induction l generalizing s with
  | nil => rfl
  | cons x l ih => simp [State.readings, ih]
@[simp] theorem State.readings_kindAt (s : State) (l : List Word) (c : Word) :
    (s.readings l).kindAt c = s.kindAt c := by simp [State.kindAt]

@[simp] theorem State.fetched_a (s : State) (k : Nat) : (s.fetched k).a = s.a := by
  simp [State.fetched]
@[simp] theorem State.fetched_b (s : State) (k : Nat) : (s.fetched k).b = s.b := by
  simp [State.fetched]
@[simp] theorem State.fetched_ix (s : State) (k : Nat) : (s.fetched k).ix = s.ix := by
  simp [State.fetched]
@[simp] theorem State.fetched_iy (s : State) (k : Nat) : (s.fetched k).iy = s.iy := by
  simp [State.fetched]
@[simp] theorem State.fetched_sp (s : State) (k : Nat) : (s.fetched k).sp = s.sp := by
  simp [State.fetched]
@[simp] theorem State.fetched_pc (s : State) (k : Nat) : (s.fetched k).pc = s.pc := by
  simp [State.fetched]
@[simp] theorem State.fetched_ccr (s : State) (k : Nat) : (s.fetched k).ccr = s.ccr := by
  simp [State.fetched]
@[simp] theorem State.fetched_run (s : State) (k : Nat) : (s.fetched k).run = s.run := by
  simp [State.fetched]
@[simp] theorem State.fetched_iDelay (s : State) (k : Nat) : (s.fetched k).iDelay = s.iDelay := by
  simp [State.fetched]
@[simp] theorem State.fetched_config (s : State) (k : Nat) : (s.fetched k).config = s.config := by
  simp [State.fetched]
@[simp] theorem State.fetched_oracle (s : State) (k : Nat) : (s.fetched k).oracle = s.oracle := by
  simp [State.fetched]
@[simp] theorem State.fetched_draws (s : State) (k : Nat) : (s.fetched k).draws = s.draws := by
  simp [State.fetched]
@[simp] theorem State.fetched_kindAt (s : State) (k : Nat) (c : Word) :
    (s.fetched k).kindAt c = s.kindAt c := by simp [State.kindAt]

@[simp] theorem State.after8_a (s : State) (o : Src8) : (s.after8 o).a = s.a := by
  cases o <;> simp [State.after8]
@[simp] theorem State.after8_b (s : State) (o : Src8) : (s.after8 o).b = s.b := by
  cases o <;> simp [State.after8]
@[simp] theorem State.after8_ix (s : State) (o : Src8) : (s.after8 o).ix = s.ix := by
  cases o <;> simp [State.after8]
@[simp] theorem State.after8_iy (s : State) (o : Src8) : (s.after8 o).iy = s.iy := by
  cases o <;> simp [State.after8]
@[simp] theorem State.after8_sp (s : State) (o : Src8) : (s.after8 o).sp = s.sp := by
  cases o <;> simp [State.after8]
@[simp] theorem State.after8_pc (s : State) (o : Src8) : (s.after8 o).pc = s.pc := by
  cases o <;> simp [State.after8]
@[simp] theorem State.after8_ccr (s : State) (o : Src8) : (s.after8 o).ccr = s.ccr := by
  cases o <;> simp [State.after8]
@[simp] theorem State.after8_run (s : State) (o : Src8) : (s.after8 o).run = s.run := by
  cases o <;> simp [State.after8]
@[simp] theorem State.after8_iDelay (s : State) (o : Src8) : (s.after8 o).iDelay = s.iDelay := by
  cases o <;> simp [State.after8]
@[simp] theorem State.after8_config (s : State) (o : Src8) : (s.after8 o).config = s.config := by
  cases o <;> simp [State.after8]
@[simp] theorem State.after8_oracle (s : State) (o : Src8) : (s.after8 o).oracle = s.oracle := by
  cases o <;> simp [State.after8]
@[simp] theorem State.after8_draws (s : State) (o : Src8) : (s.after8 o).draws = s.draws := by
  cases o <;> simp [State.after8]
@[simp] theorem State.after8_kindAt (s : State) (o : Src8) (c : Word) :
    (s.after8 o).kindAt c = s.kindAt c := by simp [State.kindAt]

@[simp] theorem State.after16_a (s : State) (o : Src16) : (s.after16 o).a = s.a := by
  cases o <;> simp [State.after16]
@[simp] theorem State.after16_b (s : State) (o : Src16) : (s.after16 o).b = s.b := by
  cases o <;> simp [State.after16]
@[simp] theorem State.after16_ix (s : State) (o : Src16) : (s.after16 o).ix = s.ix := by
  cases o <;> simp [State.after16]
@[simp] theorem State.after16_iy (s : State) (o : Src16) : (s.after16 o).iy = s.iy := by
  cases o <;> simp [State.after16]
@[simp] theorem State.after16_sp (s : State) (o : Src16) : (s.after16 o).sp = s.sp := by
  cases o <;> simp [State.after16]
@[simp] theorem State.after16_pc (s : State) (o : Src16) : (s.after16 o).pc = s.pc := by
  cases o <;> simp [State.after16]
@[simp] theorem State.after16_ccr (s : State) (o : Src16) : (s.after16 o).ccr = s.ccr := by
  cases o <;> simp [State.after16]
@[simp] theorem State.after16_run (s : State) (o : Src16) : (s.after16 o).run = s.run := by
  cases o <;> simp [State.after16]
@[simp] theorem State.after16_iDelay (s : State) (o : Src16) : (s.after16 o).iDelay = s.iDelay := by
  cases o <;> simp [State.after16]
@[simp] theorem State.after16_config (s : State) (o : Src16) : (s.after16 o).config = s.config := by
  cases o <;> simp [State.after16]
@[simp] theorem State.after16_oracle (s : State) (o : Src16) : (s.after16 o).oracle = s.oracle := by
  cases o <;> simp [State.after16]
@[simp] theorem State.after16_draws (s : State) (o : Src16) : (s.after16 o).draws = s.draws := by
  cases o <;> simp [State.after16]
@[simp] theorem State.after16_kindAt (s : State) (o : Src16) (c : Word) :
    (s.after16 o).kindAt c = s.kindAt c := by simp [State.kindAt]

@[simp] theorem State.ticked_a (s : State) : (s.ticked).a = s.a := rfl
@[simp] theorem State.ticked_b (s : State) : (s.ticked).b = s.b := rfl
@[simp] theorem State.ticked_ix (s : State) : (s.ticked).ix = s.ix := rfl
@[simp] theorem State.ticked_iy (s : State) : (s.ticked).iy = s.iy := rfl
@[simp] theorem State.ticked_sp (s : State) : (s.ticked).sp = s.sp := rfl
@[simp] theorem State.ticked_pc (s : State) : (s.ticked).pc = s.pc := rfl
@[simp] theorem State.ticked_ccr (s : State) : (s.ticked).ccr = s.ccr := rfl
@[simp] theorem State.ticked_run (s : State) : (s.ticked).run = s.run := rfl
@[simp] theorem State.ticked_iDelay (s : State) : (s.ticked).iDelay = s.iDelay := rfl
@[simp] theorem State.ticked_config (s : State) : (s.ticked).config = s.config := rfl
@[simp] theorem State.ticked_oracle (s : State) : (s.ticked).oracle = s.oracle := rfl
@[simp] theorem State.ticked_draws (s : State) : (s.ticked).draws = s.draws := rfl
@[simp] theorem State.ticked_kindAt (s : State) (c : Word) :
    (s.ticked).kindAt c = s.kindAt c := rfl

theorem State.readingWord_plain {s : State} {a : Word} (h : s.kindAt a ≠ .device)
    (h' : s.kindAt (a + 1) ≠ .device) : s.readingWord a = s := by
  rw [State.readingWord, State.reading_plain h, State.reading_plain h']

theorem State.readWord_plain {s : State} {a : Word} (h : s.kindAt a ≠ .device) :
    s.readWord a = wordOf (s.readByte a) (s.readByte (a + 1)) := by
  rw [State.readWord, State.reading_plain h]

theorem State.readings_plain {s : State} {l : List Word} (h : ∀ a ∈ l, s.kindAt a ≠ .device) :
    s.readings l = s := by
  induction l with
  | nil => rfl
  | cons x l ih =>
    rw [State.readings, State.reading_plain (h x List.mem_cons_self)]
    exact ih fun a ha => h a (List.mem_cons_of_mem _ ha)

theorem State.after8_plain {s : State} (h : ∀ a, s.kindAt a ≠ .device) (o : Src8) : s.after8 o = s := by
  cases o
  · rfl
  · exact State.reading_plain (h _)

theorem State.after16_plain {s : State} (h : ∀ a, s.kindAt a ≠ .device) (o : Src16) : s.after16 o = s := by
  cases o
  · rfl
  · exact State.readingWord_plain (h _) (h _)

/-- On a platform without devices nothing happens between two instructions. -/
theorem State.ticked_quiet {s : State} (h : s.config.hasDevices = false) : s.ticked = s := by
  rw [State.ticked, State.tickAct, h]
  rfl

/-- While the CPU is STOPPED nothing happens between two boundaries (R519). -/
theorem State.ticked_stopped {s : State} (h : s.run = .stopped) : s.ticked = s := by
  rw [State.ticked, State.tickAct, h, show (RunState.stopped != .stopped) = false from rfl, Bool.and_false]
  rfl

/-- Where the clocks run, the devices act between two instructions (R59). -/
theorem State.ticked_devices {s : State} (h : s.config.hasDevices = true) (hr : s.run ≠ .stopped) :
    s.ticked = s.acted (Config.deviceTick s.devices) := by
  simp [State.ticked, State.tickAct, h, hr]

/-! ### asked -/

@[simp] theorem State.asked_a (s : State) : s.asked.a = s.a := rfl
@[simp] theorem State.asked_b (s : State) : s.asked.b = s.b := rfl
@[simp] theorem State.asked_ix (s : State) : s.asked.ix = s.ix := rfl
@[simp] theorem State.asked_iy (s : State) : s.asked.iy = s.iy := rfl
@[simp] theorem State.asked_sp (s : State) : s.asked.sp = s.sp := rfl
@[simp] theorem State.asked_pc (s : State) : s.asked.pc = s.pc := rfl
@[simp] theorem State.asked_ccr (s : State) : s.asked.ccr = s.ccr := rfl
@[simp] theorem State.asked_run (s : State) : s.asked.run = s.run := rfl
@[simp] theorem State.asked_iDelay (s : State) : s.asked.iDelay = s.iDelay := rfl
@[simp] theorem State.asked_config (s : State) : s.asked.config = s.config := rfl
@[simp] theorem State.asked_oracle (s : State) : s.asked.oracle = s.oracle.next := rfl
@[simp] theorem State.asked_draws (s : State) : s.asked.draws = s.draws + 1 := rfl
@[simp] theorem State.asked_kindAt (s : State) (c : Word) : s.asked.kindAt c = s.kindAt c := rfl

/-- Where no device acts, asking changes the oracle's answer and the draw counter alone. -/
theorem State.asked_still {s : State} (h : s.ticked = s) :
    s.asked = { s with oracle := s.oracle.next, draws := s.draws + 1 } := by
  rw [State.asked, h]

/-! ### Two states with equal fields are equal -/

theorem State.ext_fields {s t : State} (a : s.a = t.a) (b : s.b = t.b) (ix : s.ix = t.ix) (iy : s.iy = t.iy)
    (sp : s.sp = t.sp) (pc : s.pc = t.pc) (ccr : s.ccr = t.ccr) (run : s.run = t.run) (iDelay : s.iDelay =
    t.iDelay) (mem : s.mem = t.mem) (devices : s.devices = t.devices) (config : s.config = t.config) (oracle
    : s.oracle = t.oracle) (draws : s.draws = t.draws) : s = t := by
  cases s
  cases t
  simp_all

/-! ### The frame of each: a read, a tick, an operand change memory and the devices alone -/

theorem State.acted_frame (s : State) (d : DeviceAct) :
    s.acted d = { s with mem := (s.acted d).mem, devices := (s.acted d).devices } := by
  apply State.ext_fields <;> simp

theorem State.reading_frame (s : State) (x : Word) :
    s.reading x = { s with mem := (s.reading x).mem, devices := (s.reading x).devices } := by
  apply State.ext_fields <;> simp

theorem State.readingWord_frame (s : State) (x : Word) :
    s.readingWord x = { s with mem := (s.readingWord x).mem, devices := (s.readingWord x).devices } := by
  apply State.ext_fields <;> simp

theorem State.readings_frame (s : State) (l : List Word) :
    s.readings l = { s with mem := (s.readings l).mem, devices := (s.readings l).devices } := by
  apply State.ext_fields <;> simp

theorem State.fetched_frame (s : State) (k : Nat) :
    s.fetched k = { s with mem := (s.fetched k).mem, devices := (s.fetched k).devices } := by
  apply State.ext_fields <;> simp

theorem State.after8_frame (s : State) (o : Src8) :
    s.after8 o = { s with mem := (s.after8 o).mem, devices := (s.after8 o).devices } := by
  apply State.ext_fields <;> simp

theorem State.after16_frame (s : State) (o : Src16) :
    s.after16 o = { s with mem := (s.after16 o).mem, devices := (s.after16 o).devices } := by
  apply State.ext_fields <;> simp

theorem State.ticked_frame (s : State) :
    s.ticked = { s with mem := (s.ticked).mem, devices := (s.ticked).devices } := by
  apply State.ext_fields <;> simp

/-! ### results into an accumulator -/

@[simp] theorem State.resultA_a (s : State) (p : Byte × CCR) : (s.resultA p).a = p.1 := rfl
@[simp] theorem State.resultA_b (s : State) (p : Byte × CCR) : (s.resultA p).b = s.b := rfl
@[simp] theorem State.resultA_ix (s : State) (p : Byte × CCR) : (s.resultA p).ix = s.ix := rfl
@[simp] theorem State.resultA_iy (s : State) (p : Byte × CCR) : (s.resultA p).iy = s.iy := rfl
@[simp] theorem State.resultA_sp (s : State) (p : Byte × CCR) : (s.resultA p).sp = s.sp := rfl
@[simp] theorem State.resultA_pc (s : State) (p : Byte × CCR) : (s.resultA p).pc = s.pc := rfl
@[simp] theorem State.resultA_ccr (s : State) (p : Byte × CCR) : (s.resultA p).ccr = p.2 := rfl
@[simp] theorem State.resultA_run (s : State) (p : Byte × CCR) : (s.resultA p).run = s.run := rfl
@[simp] theorem State.resultA_iDelay (s : State) (p : Byte × CCR) : (s.resultA p).iDelay = s.iDelay := rfl
@[simp] theorem State.resultA_mem (s : State) (p : Byte × CCR) : (s.resultA p).mem = s.mem := rfl
@[simp] theorem State.resultA_devices (s : State) (p : Byte × CCR) : (s.resultA p).devices = s.devices := rfl
@[simp] theorem State.resultA_config (s : State) (p : Byte × CCR) : (s.resultA p).config = s.config := rfl
@[simp] theorem State.resultA_oracle (s : State) (p : Byte × CCR) : (s.resultA p).oracle = s.oracle := rfl
@[simp] theorem State.resultA_draws (s : State) (p : Byte × CCR) : (s.resultA p).draws = s.draws := rfl

@[simp] theorem State.resultB_a (s : State) (p : Byte × CCR) : (s.resultB p).a = s.a := rfl
@[simp] theorem State.resultB_b (s : State) (p : Byte × CCR) : (s.resultB p).b = p.1 := rfl
@[simp] theorem State.resultB_ix (s : State) (p : Byte × CCR) : (s.resultB p).ix = s.ix := rfl
@[simp] theorem State.resultB_iy (s : State) (p : Byte × CCR) : (s.resultB p).iy = s.iy := rfl
@[simp] theorem State.resultB_sp (s : State) (p : Byte × CCR) : (s.resultB p).sp = s.sp := rfl
@[simp] theorem State.resultB_pc (s : State) (p : Byte × CCR) : (s.resultB p).pc = s.pc := rfl
@[simp] theorem State.resultB_ccr (s : State) (p : Byte × CCR) : (s.resultB p).ccr = p.2 := rfl
@[simp] theorem State.resultB_run (s : State) (p : Byte × CCR) : (s.resultB p).run = s.run := rfl
@[simp] theorem State.resultB_iDelay (s : State) (p : Byte × CCR) : (s.resultB p).iDelay = s.iDelay := rfl
@[simp] theorem State.resultB_mem (s : State) (p : Byte × CCR) : (s.resultB p).mem = s.mem := rfl
@[simp] theorem State.resultB_devices (s : State) (p : Byte × CCR) : (s.resultB p).devices = s.devices := rfl
@[simp] theorem State.resultB_config (s : State) (p : Byte × CCR) : (s.resultB p).config = s.config := rfl
@[simp] theorem State.resultB_oracle (s : State) (p : Byte × CCR) : (s.resultB p).oracle = s.oracle := rfl
@[simp] theorem State.resultB_draws (s : State) (p : Byte × CCR) : (s.resultB p).draws = s.draws := rfl

@[simp] theorem State.resultD_a (s : State) (p : Word × CCR) : (s.resultD p).a = highByte p.1 := rfl
@[simp] theorem State.resultD_b (s : State) (p : Word × CCR) : (s.resultD p).b = lowByte p.1 := rfl
@[simp] theorem State.resultD_ix (s : State) (p : Word × CCR) : (s.resultD p).ix = s.ix := rfl
@[simp] theorem State.resultD_iy (s : State) (p : Word × CCR) : (s.resultD p).iy = s.iy := rfl
@[simp] theorem State.resultD_sp (s : State) (p : Word × CCR) : (s.resultD p).sp = s.sp := rfl
@[simp] theorem State.resultD_pc (s : State) (p : Word × CCR) : (s.resultD p).pc = s.pc := rfl
@[simp] theorem State.resultD_ccr (s : State) (p : Word × CCR) : (s.resultD p).ccr = p.2 := rfl
@[simp] theorem State.resultD_run (s : State) (p : Word × CCR) : (s.resultD p).run = s.run := rfl
@[simp] theorem State.resultD_iDelay (s : State) (p : Word × CCR) : (s.resultD p).iDelay = s.iDelay := rfl
@[simp] theorem State.resultD_mem (s : State) (p : Word × CCR) : (s.resultD p).mem = s.mem := rfl
@[simp] theorem State.resultD_devices (s : State) (p : Word × CCR) : (s.resultD p).devices = s.devices := rfl
@[simp] theorem State.resultD_config (s : State) (p : Word × CCR) : (s.resultD p).config = s.config := rfl
@[simp] theorem State.resultD_oracle (s : State) (p : Word × CCR) : (s.resultD p).oracle = s.oracle := rfl
@[simp] theorem State.resultD_draws (s : State) (p : Word × CCR) : (s.resultD p).draws = s.draws := rfl

end Sys2Proof.Machine
end

