-- ==== Sys2Proof/Laws/Memory.lean ====
section
/-! SUPPORT. Memory as a list: a read after a write, the canonical form and that every write keeps it, and
that in this form equal contents are equal lists. Then the same over the platform. -/

namespace Sys2Proof.Machine

/-! ### Reading what was written -/

theorem Memory.read_erase (m : Memory) (a x : Nat) :
    (m.erase a).read x = if x = a then blank else m.read x := by
  induction m with
  | nil => simp [Memory.erase, Memory.read]
  | cons e m ih =>
    obtain ⟨k, v⟩ := e
    simp only [Memory.erase]
    split
    · next h =>
      subst h
      rw [ih]
      by_cases hx : x = k
      · simp [hx]
      · simp [hx, Memory.read, Ne.symm hx]
    · next h =>
      by_cases hx : x = a
      · subst hx
        simp [Memory.read, h, ih]
      · simp only [Memory.read, ih, hx, if_false]

theorem Memory.read_insert (m : Memory) (a x : Nat) (v : Byte) (h : ∀ e ∈ m, e.1 ≠ a) :
    (Memory.insert a v m).read x = if x = a then v else m.read x := by
  induction m with
  | nil => simp [Memory.insert, Memory.read, eq_comm]
  | cons e m ih =>
    obtain ⟨k, w⟩ := e
    have hk : k ≠ a := h _ List.mem_cons_self
    simp only [Memory.insert]
    split
    · by_cases hx : x = a
      · simp [Memory.read, hx]
      · simp [Memory.read, hx, Ne.symm hx]
    · simp only [Memory.read, ih fun e he => h e (List.mem_cons_of_mem _ he)]
      by_cases hx : x = a
      · subst hx
        simp [hk]
      · simp [hx]

theorem Memory.mem_erase {m : Memory} {a : Nat} {e : Host.Cell} (h : e ∈ m.erase a) :
    e ∈ m ∧ e.1 ≠ a := by
  induction m with
  | nil => simp [Memory.erase] at h
  | cons c m ih =>
    obtain ⟨k, v⟩ := c
    simp only [Memory.erase] at h
    split at h
    · exact ⟨List.mem_cons_of_mem _ (ih h).1, (ih h).2⟩
    · next hk =>
      rcases List.mem_cons.mp h with rfl | h
      · exact ⟨List.mem_cons_self, hk⟩
      · exact ⟨List.mem_cons_of_mem _ (ih h).1, (ih h).2⟩

/-- A read after a write gives the byte written, and every other address reads as before. -/
theorem Memory.read_write (m : Memory) (a x : Nat) (v : Byte) :
    (m.write a v).read x = if x = a then v else m.read x := by
  unfold Memory.write
  split
  · next h => rw [Memory.read_erase, h]
  · rw [Memory.read_insert _ _ _ _ fun e he => (Memory.mem_erase he).2, Memory.read_erase]
    by_cases hx : x = a <;> simp [hx]

/-! ### The canonical form -/

theorem Memory.wfFrom_mono {lo lo' : Nat} {m : Memory} (h : Memory.wfFrom lo m = true)
    (hl : lo' ≤ lo) : Memory.wfFrom lo' m = true := by
  cases m with
  | nil => rfl
  | cons e m =>
    obtain ⟨k, v⟩ := e
    simp only [Memory.wfFrom, Bool.and_eq_true, decide_eq_true_eq] at h ⊢
    exact ⟨⟨⟨by omega, h.1.1.2⟩, h.1.2⟩, h.2⟩

theorem Memory.wfFrom_erase {lo : Nat} {m : Memory} (a : Nat) (h : Memory.wfFrom lo m = true) :
    Memory.wfFrom lo (m.erase a) = true := by
  induction m generalizing lo with
  | nil => rfl
  | cons e m ih =>
    obtain ⟨k, v⟩ := e
    simp only [Memory.wfFrom, Bool.and_eq_true, decide_eq_true_eq] at h
    simp only [Memory.erase]
    split
    · exact Memory.wfFrom_mono (ih h.2) (by omega)
    · simp only [Memory.wfFrom, Bool.and_eq_true, decide_eq_true_eq]
      exact ⟨h.1, ih h.2⟩

theorem Memory.wfFrom_insert {lo a : Nat} {v : Byte} {m : Memory} (h : Memory.wfFrom lo m = true)
    (hlo : lo ≤ a) (ha : a < 65536) (hv : v ≠ blank) (hm : ∀ e ∈ m, e.1 ≠ a) :
    Memory.wfFrom lo (Memory.insert a v m) = true := by
  induction m generalizing lo with
  | nil => simp [Memory.insert, Memory.wfFrom, hlo, ha, hv]
  | cons e m ih =>
    obtain ⟨k, w⟩ := e
    have hk : k ≠ a := hm _ List.mem_cons_self
    have h' := h
    simp only [Memory.wfFrom, Bool.and_eq_true, decide_eq_true_eq] at h
    simp only [Memory.insert]
    split
    · simp only [Memory.wfFrom, Bool.and_eq_true, decide_eq_true_eq]
      exact ⟨⟨⟨hlo, ha⟩, by simpa using hv⟩, ⟨⟨by omega, h.1.1.2⟩, h.1.2⟩, h.2⟩
    · simp only [Memory.wfFrom, Bool.and_eq_true, decide_eq_true_eq]
      exact ⟨h.1, ih h.2 (by omega) fun e he => hm e (List.mem_cons_of_mem _ he)⟩

/-- Every write keeps the canonical form. -/
theorem Memory.wf_write {m : Memory} (h : m.wf = true) (a : Word) (v : Byte) :
    (m.write a.toNat v).wf = true := by
  unfold Memory.write Memory.wf
  split
  · exact Memory.wfFrom_erase _ h
  · next hv =>
    exact Memory.wfFrom_insert (Memory.wfFrom_erase _ h) (Nat.zero_le _) a.isLt hv
      fun e he => (Memory.mem_erase he).2

theorem Memory.read_below {lo x : Nat} {m : Memory} (h : Memory.wfFrom lo m = true) (hx : x < lo) :
    m.read x = blank := by
  induction m generalizing lo with
  | nil => rfl
  | cons e m ih =>
    obtain ⟨k, v⟩ := e
    simp only [Memory.wfFrom, Bool.and_eq_true, decide_eq_true_eq] at h
    have hk : k ≠ x := by omega
    simp only [Memory.read, hk, if_false]
    exact ih h.2 (by omega)

theorem Memory.eq_of_read {lo : Nat} {m m' : Memory} (h : Memory.wfFrom lo m = true)
    (h' : Memory.wfFrom lo m' = true) (heq : ∀ x, m.read x = m'.read x) : m = m' := by
  induction m generalizing lo m' with
  | nil =>
    cases m' with
    | nil => rfl
    | cons e m' =>
      obtain ⟨k, v⟩ := e
      simp only [Memory.wfFrom, Bool.and_eq_true] at h'
      have := heq k
      simp [Memory.read] at this
      simp [this] at h'
  | cons e m ih =>
    obtain ⟨k, v⟩ := e
    simp only [Memory.wfFrom, Bool.and_eq_true, decide_eq_true_eq, bne_iff_ne] at h
    cases m' with
    | nil =>
      have := heq k
      simp [Memory.read] at this
      exact absurd this h.1.2
    | cons e' m' =>
      obtain ⟨k', v'⟩ := e'
      simp only [Memory.wfFrom, Bool.and_eq_true, decide_eq_true_eq, bne_iff_ne] at h'
      have hk : k = k' := by
        rcases Nat.lt_trichotomy k k' with hlt | he | hgt
        · have := heq k
          rw [Memory.read, if_pos rfl, Memory.read, if_neg (by omega),
            Memory.read_below h'.2 (by omega)] at this
          exact absurd this h.1.2
        · exact he
        · have := heq k'
          rw [Memory.read, if_neg (by omega), Memory.read_below h.2 (by omega), Memory.read,
            if_pos rfl] at this
          exact absurd this.symm h'.1.2
      subst hk
      have hv := heq k
      simp only [Memory.read, if_true] at hv
      subst hv
      rw [ih h.2 h'.2 fun x => ?_]
      by_cases hx : k = x
      · subst hx
        rw [Memory.read_below h.2 (by omega), Memory.read_below h'.2 (by omega)]
      · simpa [Memory.read, hx] using heq x

/-- Two memories in the canonical form that read alike at every address are the same list. -/
theorem Memory.wf_ext {m m' : Memory} (h : m.wf = true) (h' : m'.wf = true)
    (heq : ∀ x, m.read x = m'.read x) : m = m' := Memory.eq_of_read h h' heq

theorem State.reset_memory_wf : State.reset.mem.wf = true := rfl

/-! ### Over the platform: the devices -/

/-- What the devices store keeps the canonical form. -/
theorem deviceStores_wf (platform : List Region) {m : Memory} (h : m.wf = true) (l : List (Word × Byte)) :
    (deviceStores platform m l).wf = true := by
  induction l generalizing m with
  | nil => exact h
  | cons e l ih =>
    obtain ⟨a, v⟩ := e
    unfold deviceStores
    split
    · exact ih (Memory.wf_write h a v)
    · exact ih (Memory.wf_write h a v)
    · exact ih h
    · exact ih h

theorem State.acted_wf {s : State} (h : s.mem.wf = true) (d : DeviceAct) : (s.acted d).mem.wf = true :=
  deviceStores_wf _ h _

theorem State.reading_wf {s : State} (h : s.mem.wf = true) (a : Word) : (s.reading a).mem.wf = true :=
  State.acted_wf h _

theorem State.readingWord_wf {s : State} (h : s.mem.wf = true) (a : Word) :
    (s.readingWord a).mem.wf = true := State.reading_wf (State.reading_wf h _) _

theorem State.readings_wf {s : State} (h : s.mem.wf = true) (l : List Word) :
    (s.readings l).mem.wf = true := by
  induction l generalizing s with
  | nil => exact h
  | cons a l ih => exact ih (State.reading_wf h a)

theorem State.fetched_wf {s : State} (h : s.mem.wf = true) (k : Nat) : (s.fetched k).mem.wf = true :=
  State.readings_wf h _

theorem State.ticked_wf {s : State} (h : s.mem.wf = true) : s.ticked.mem.wf = true := State.acted_wf h _

theorem State.asked_wf {s : State} (h : s.mem.wf = true) : s.asked.mem.wf = true := State.ticked_wf h

theorem State.after8_wf {s : State} (h : s.mem.wf = true) (o : Src8) : (s.after8 o).mem.wf = true := by
  cases o
  · exact h
  · exact State.reading_wf h _

theorem State.after16_wf {s : State} (h : s.mem.wf = true) (o : Src16) : (s.after16 o).mem.wf = true := by
  cases o
  · exact h
  · exact State.readingWord_wf h _

/-! ### Over the platform: writeByte -/

theorem State.writeByte_storage {s : State} {a : Word} (h : s.kindAt a = .storage) (v : Byte) :
    s.writeByte a v = { s with mem := s.mem.write a.toNat v } := by
  simp [State.writeByte, h]

theorem State.writeByte_device {s : State} {a : Word} (h : s.kindAt a = .device) (v : Byte) :
    s.writeByte a v = s.acted (Config.deviceWrite s.devices a v) := by
  simp [State.writeByte, h]

theorem State.writeByte_dropped {s : State} {a : Word} (h : s.kindAt a ≠ .storage)
    (h' : s.kindAt a ≠ .device) (v : Byte) : s.writeByte a v = s := by
  unfold State.writeByte
  split <;> simp_all

@[simp] theorem State.writeByte_a (s : State) (x : Word) (v : Byte) :
    (s.writeByte x v).a = s.a := by
  unfold State.writeByte; split <;> rfl
@[simp] theorem State.writeByte_b (s : State) (x : Word) (v : Byte) :
    (s.writeByte x v).b = s.b := by
  unfold State.writeByte; split <;> rfl
@[simp] theorem State.writeByte_ix (s : State) (x : Word) (v : Byte) :
    (s.writeByte x v).ix = s.ix := by
  unfold State.writeByte; split <;> rfl
@[simp] theorem State.writeByte_iy (s : State) (x : Word) (v : Byte) :
    (s.writeByte x v).iy = s.iy := by
  unfold State.writeByte; split <;> rfl
@[simp] theorem State.writeByte_sp (s : State) (x : Word) (v : Byte) :
    (s.writeByte x v).sp = s.sp := by
  unfold State.writeByte; split <;> rfl
@[simp] theorem State.writeByte_pc (s : State) (x : Word) (v : Byte) :
    (s.writeByte x v).pc = s.pc := by
  unfold State.writeByte; split <;> rfl
@[simp] theorem State.writeByte_ccr (s : State) (x : Word) (v : Byte) :
    (s.writeByte x v).ccr = s.ccr := by
  unfold State.writeByte; split <;> rfl
@[simp] theorem State.writeByte_run (s : State) (x : Word) (v : Byte) :
    (s.writeByte x v).run = s.run := by
  unfold State.writeByte; split <;> rfl
@[simp] theorem State.writeByte_iDelay (s : State) (x : Word) (v : Byte) :
    (s.writeByte x v).iDelay = s.iDelay := by
  unfold State.writeByte; split <;> rfl
@[simp] theorem State.writeByte_config (s : State) (x : Word) (v : Byte) :
    (s.writeByte x v).config = s.config := by
  unfold State.writeByte; split <;> rfl
@[simp] theorem State.writeByte_oracle (s : State) (x : Word) (v : Byte) :
    (s.writeByte x v).oracle = s.oracle := by
  unfold State.writeByte; split <;> rfl
@[simp] theorem State.writeByte_draws (s : State) (x : Word) (v : Byte) :
    (s.writeByte x v).draws = s.draws := by
  unfold State.writeByte; split <;> rfl

/-- A byte store changes memory and the devices, and no other field. -/
theorem State.writeByte_frame (s : State) (a : Word) (v : Byte) :
    s.writeByte a v = { s with mem := (s.writeByte a v).mem, devices := (s.writeByte a v).devices } := by
  unfold State.writeByte; split <;> rfl

@[simp] theorem State.writeByte_kindAt (s : State) (a c : Word) (v : Byte) :
    (s.writeByte a v).kindAt c = s.kindAt c := by
  simp [State.kindAt]

theorem State.writeByte_devices {s : State} {a : Word} (h : s.kindAt a ≠ .device) (v : Byte) :
    (s.writeByte a v).devices = s.devices := by
  unfold State.writeByte
  split <;> first | rfl | (next hk => exact absurd hk h)

/-- What a byte store at no device does to every read (R62, R67): the byte at a storage cell is the one stored;
a read-only or an absent cell, and every other address, reads as before. -/
theorem State.readByte_writeByte {s : State} {a : Word} (h : s.kindAt a ≠ .device) (x : Word) (v : Byte) :
    (s.writeByte a v).readByte x =
      if x = a ∧ s.kindAt a = .storage then v else s.readByte x := by
  by_cases hk : s.kindAt a = .storage
  · unfold State.readByte
    rw [State.writeByte_kindAt, State.writeByte_draws, State.writeByte_devices h]
    by_cases hx : x = a
    · subst hx
      simp [hk, State.writeByte_storage hk, Memory.read_write]
    · have : x.toNat ≠ a.toNat := fun h => hx (BitVec.eq_of_toNat_eq h)
      simp [hk, hx, State.writeByte_storage hk, Memory.read_write, this]
  · rw [State.writeByte_dropped hk h, if_neg fun e => hk e.2]

/-- The same of the bytes of code (R64): a store is seen by the next fetch. -/
theorem State.fetchByte_writeByte {s : State} {a : Word} (h : s.kindAt a ≠ .device) (x : Word) (v : Byte) :
    (s.writeByte a v).fetchByte x =
      if x = a ∧ s.kindAt a = .storage then v else s.fetchByte x := by
  by_cases hk : s.kindAt a = .storage
  · unfold State.fetchByte
    rw [State.writeByte_kindAt, State.writeByte_draws, State.writeByte_devices h]
    by_cases hx : x = a
    · subst hx
      simp [hk, State.writeByte_storage hk, Memory.read_write]
    · have : x.toNat ≠ a.toNat := fun h => hx (BitVec.eq_of_toNat_eq h)
      simp [hk, hx, State.writeByte_storage hk, Memory.read_write, this]
  · rw [State.writeByte_dropped hk h, if_neg fun e => hk e.2]

theorem State.writeByte_wf {s : State} (h : s.mem.wf = true) (a : Word) (v : Byte) :
    (s.writeByte a v).mem.wf = true := by
  unfold State.writeByte
  split
  · exact Memory.wf_write h a v
  · exact h
  · exact h
  · exact State.acted_wf h _

/-- An update that looks neither at the cells nor at the devices may be made before a store or after it. -/
theorem State.writeByte_update {s : State} (f : State → State)
    (h : ∀ u, (f u).devices = u.devices ∧ (f u).config = u.config)
    (h' : ∀ u d, (f u).acted d = f (u.acted d))
    (h'' : ∀ u a v, { f u with mem := Memory.write (f u).mem a v } = f { u with mem := Memory.write u.mem a v })
    (a : Word) (v : Byte) : (f s).writeByte a v = f (s.writeByte a v) := by
  have hk : (f s).kindAt a = s.kindAt a := by rw [State.kindAt, State.kindAt, (h s).2]
  unfold State.writeByte
  rw [hk]
  split <;> first | rfl | rw [h''] | rw [(h s).1, h']

theorem State.setSP_writeByte (s : State) (x a : Word) (v : Byte) :
    (s.setSP x).writeByte a v = (s.writeByte a v).setSP x :=
  State.writeByte_update (·.setSP x) (fun _ => ⟨rfl, rfl⟩) (fun _ _ => rfl) (fun _ _ _ => rfl) a v

/-! ### Bytes of a word -/

@[simp] theorem wordOf_high_low (w : Word) : wordOf (highByte w) (lowByte w) = w := by
  apply BitVec.eq_of_getLsbD_eq
  intro i hi
  simp only [wordOf, highByte, lowByte, BitVec.getLsbD_append, BitVec.getLsbD_extractLsb']
  rcases Nat.lt_or_ge i 8 with h | h
  · simp [h]
  · have h1 : ¬ i < 8 := by omega
    have h2 : i - 8 < 8 := by omega
    have h3 : 8 + (i - 8) = i := by omega
    simp [h1, h2, h3]

theorem wordOf_toNat (h l : Byte) : (wordOf h l).toNat = 256 * h.toNat + l.toNat := by
  rw [wordOf, BitVec.toNat_append, ← Nat.shiftLeft_add_eq_or_of_lt l.isLt, Nat.shiftLeft_eq]
  omega

theorem highByte_toNat (w : Word) : (highByte w).toNat = w.toNat / 256 := by
  have := w.isLt
  simp only [highByte, BitVec.extractLsb'_toNat, Nat.shiftRight_eq_div_pow]
  omega

theorem lowByte_toNat (w : Word) : (lowByte w).toNat = w.toNat % 256 := by
  simp [lowByte, BitVec.extractLsb'_toNat]

@[simp] theorem highByte_wordOf (h l : Byte) : highByte (wordOf h l) = h := by
  apply BitVec.eq_of_toNat_eq
  have := l.isLt
  rw [highByte_toNat, wordOf_toNat]
  omega

@[simp] theorem lowByte_wordOf (h l : Byte) : lowByte (wordOf h l) = l := by
  apply BitVec.eq_of_toNat_eq
  have := l.isLt
  rw [lowByte_toNat, wordOf_toNat]
  omega

end Sys2Proof.Machine
end

