-- ==== Sys2Proof/Laws/Ops.lean ====
section
/-! SUPPORT. What each shared operation does, said once: stores of a word, pushes, pulls, the nine-byte frame,
taking an exception, returning from one, reset, branches; and that each keeps memory canonical. -/

namespace Sys2Proof.Machine

/-! ### writeWord: the fields -/

@[simp] theorem State.writeWord_a (s : State) (x v : Word) : (s.writeWord x v).a = s.a := by simp [State.writeWord]
@[simp] theorem State.writeWord_b (s : State) (x v : Word) : (s.writeWord x v).b = s.b := by simp [State.writeWord]
@[simp] theorem State.writeWord_ix (s : State) (x v : Word) : (s.writeWord x v).ix = s.ix := by simp [State.writeWord]
@[simp] theorem State.writeWord_iy (s : State) (x v : Word) : (s.writeWord x v).iy = s.iy := by simp [State.writeWord]
@[simp] theorem State.writeWord_sp (s : State) (x v : Word) : (s.writeWord x v).sp = s.sp := by simp [State.writeWord]
@[simp] theorem State.writeWord_pc (s : State) (x v : Word) : (s.writeWord x v).pc = s.pc := by simp [State.writeWord]
@[simp] theorem State.writeWord_ccr (s : State) (x v : Word) : (s.writeWord x v).ccr = s.ccr := by simp [State.writeWord]
@[simp] theorem State.writeWord_run (s : State) (x v : Word) : (s.writeWord x v).run = s.run := by simp [State.writeWord]
@[simp] theorem State.writeWord_iDelay (s : State) (x v : Word) : (s.writeWord x v).iDelay = s.iDelay := by simp [State.writeWord]
@[simp] theorem State.writeWord_config (s : State) (x v : Word) : (s.writeWord x v).config = s.config := by simp [State.writeWord]
@[simp] theorem State.writeWord_oracle (s : State) (x v : Word) : (s.writeWord x v).oracle = s.oracle := by simp [State.writeWord]
@[simp] theorem State.writeWord_draws (s : State) (x v : Word) : (s.writeWord x v).draws = s.draws := by simp [State.writeWord]

/-! ### push8: the fields -/

@[simp] theorem State.push8_a (s : State) (v : Byte) : (s.push8 v).a = s.a := by simp [State.push8]
@[simp] theorem State.push8_b (s : State) (v : Byte) : (s.push8 v).b = s.b := by simp [State.push8]
@[simp] theorem State.push8_ix (s : State) (v : Byte) : (s.push8 v).ix = s.ix := by simp [State.push8]
@[simp] theorem State.push8_iy (s : State) (v : Byte) : (s.push8 v).iy = s.iy := by simp [State.push8]
@[simp] theorem State.push8_sp (s : State) (v : Byte) : (s.push8 v).sp = s.sp - 1 := by simp [State.push8]
@[simp] theorem State.push8_pc (s : State) (v : Byte) : (s.push8 v).pc = s.pc := by simp [State.push8]
@[simp] theorem State.push8_ccr (s : State) (v : Byte) : (s.push8 v).ccr = s.ccr := by simp [State.push8]
@[simp] theorem State.push8_run (s : State) (v : Byte) : (s.push8 v).run = s.run := by simp [State.push8]
@[simp] theorem State.push8_iDelay (s : State) (v : Byte) : (s.push8 v).iDelay = s.iDelay := by simp [State.push8]
@[simp] theorem State.push8_config (s : State) (v : Byte) : (s.push8 v).config = s.config := by simp [State.push8]
@[simp] theorem State.push8_oracle (s : State) (v : Byte) : (s.push8 v).oracle = s.oracle := by simp [State.push8]
@[simp] theorem State.push8_draws (s : State) (v : Byte) : (s.push8 v).draws = s.draws := by simp [State.push8]

/-! ### drop8: the fields -/

@[simp] theorem State.drop8_a (s : State) : (s.drop8).a = s.a := by simp [State.drop8]
@[simp] theorem State.drop8_b (s : State) : (s.drop8).b = s.b := by simp [State.drop8]
@[simp] theorem State.drop8_ix (s : State) : (s.drop8).ix = s.ix := by simp [State.drop8]
@[simp] theorem State.drop8_iy (s : State) : (s.drop8).iy = s.iy := by simp [State.drop8]
@[simp] theorem State.drop8_sp (s : State) : (s.drop8).sp = s.sp + 1 := by simp [State.drop8]
@[simp] theorem State.drop8_pc (s : State) : (s.drop8).pc = s.pc := by simp [State.drop8]
@[simp] theorem State.drop8_ccr (s : State) : (s.drop8).ccr = s.ccr := by simp [State.drop8]
@[simp] theorem State.drop8_run (s : State) : (s.drop8).run = s.run := by simp [State.drop8]
@[simp] theorem State.drop8_iDelay (s : State) : (s.drop8).iDelay = s.iDelay := by simp [State.drop8]
@[simp] theorem State.drop8_config (s : State) : (s.drop8).config = s.config := by simp [State.drop8]
@[simp] theorem State.drop8_oracle (s : State) : (s.drop8).oracle = s.oracle := by simp [State.drop8]
@[simp] theorem State.drop8_draws (s : State) : (s.drop8).draws = s.draws := by simp [State.drop8]

theorem word_sub_sub (x : Word) (j k : Nat) :
    x - BitVec.ofNat 16 j - BitVec.ofNat 16 k = x - BitVec.ofNat 16 (j + k) := by
  rw [BitVec.sub_sub, BitVec.ofNat_add]

theorem word_add_add (x : Word) (j k : Nat) :
    x + BitVec.ofNat 16 j + BitVec.ofNat 16 k = x + BitVec.ofNat 16 (j + k) := by
  rw [BitVec.add_assoc, BitVec.ofNat_add]

/-! ### push16: the fields -/

@[simp] theorem State.push16_a (s : State) (v : Word) : (s.push16 v).a = s.a := by simp [State.push16]
@[simp] theorem State.push16_b (s : State) (v : Word) : (s.push16 v).b = s.b := by simp [State.push16]
@[simp] theorem State.push16_ix (s : State) (v : Word) : (s.push16 v).ix = s.ix := by simp [State.push16]
@[simp] theorem State.push16_iy (s : State) (v : Word) : (s.push16 v).iy = s.iy := by simp [State.push16]
@[simp] theorem State.push16_pc (s : State) (v : Word) : (s.push16 v).pc = s.pc := by simp [State.push16]
@[simp] theorem State.push16_ccr (s : State) (v : Word) : (s.push16 v).ccr = s.ccr := by simp [State.push16]
@[simp] theorem State.push16_run (s : State) (v : Word) : (s.push16 v).run = s.run := by simp [State.push16]
@[simp] theorem State.push16_iDelay (s : State) (v : Word) : (s.push16 v).iDelay = s.iDelay := by simp [State.push16]
@[simp] theorem State.push16_config (s : State) (v : Word) : (s.push16 v).config = s.config := by simp [State.push16]
@[simp] theorem State.push16_oracle (s : State) (v : Word) : (s.push16 v).oracle = s.oracle := by simp [State.push16]
@[simp] theorem State.push16_draws (s : State) (v : Word) : (s.push16 v).draws = s.draws := by simp [State.push16]

@[simp] theorem State.push16_sp (s : State) (v : Word) : (s.push16 v).sp = s.sp - 2 := by
  simpa [State.push16] using word_sub_sub s.sp 1 1

/-! ### drop16: the fields -/

@[simp] theorem State.drop16_a (s : State) : (s.drop16).a = s.a := by simp [State.drop16]
@[simp] theorem State.drop16_b (s : State) : (s.drop16).b = s.b := by simp [State.drop16]
@[simp] theorem State.drop16_ix (s : State) : (s.drop16).ix = s.ix := by simp [State.drop16]
@[simp] theorem State.drop16_iy (s : State) : (s.drop16).iy = s.iy := by simp [State.drop16]
@[simp] theorem State.drop16_pc (s : State) : (s.drop16).pc = s.pc := by simp [State.drop16]
@[simp] theorem State.drop16_ccr (s : State) : (s.drop16).ccr = s.ccr := by simp [State.drop16]
@[simp] theorem State.drop16_run (s : State) : (s.drop16).run = s.run := by simp [State.drop16]
@[simp] theorem State.drop16_iDelay (s : State) : (s.drop16).iDelay = s.iDelay := by simp [State.drop16]
@[simp] theorem State.drop16_config (s : State) : (s.drop16).config = s.config := by simp [State.drop16]
@[simp] theorem State.drop16_oracle (s : State) : (s.drop16).oracle = s.oracle := by simp [State.drop16]
@[simp] theorem State.drop16_draws (s : State) : (s.drop16).draws = s.draws := by simp [State.drop16]

@[simp] theorem State.drop16_sp (s : State) : s.drop16.sp = s.sp + 2 := by
  simpa [State.drop16] using word_add_add s.sp 1 1

/-! ### stackFrame: the fields -/

@[simp] theorem State.stackFrame_a (s : State) (p : Word) : (s.stackFrame p).a = s.a := by simp [State.stackFrame]
@[simp] theorem State.stackFrame_b (s : State) (p : Word) : (s.stackFrame p).b = s.b := by simp [State.stackFrame]
@[simp] theorem State.stackFrame_ix (s : State) (p : Word) : (s.stackFrame p).ix = s.ix := by simp [State.stackFrame]
@[simp] theorem State.stackFrame_iy (s : State) (p : Word) : (s.stackFrame p).iy = s.iy := by simp [State.stackFrame]
@[simp] theorem State.stackFrame_pc (s : State) (p : Word) : (s.stackFrame p).pc = s.pc := by simp [State.stackFrame]
@[simp] theorem State.stackFrame_ccr (s : State) (p : Word) : (s.stackFrame p).ccr = s.ccr := by simp [State.stackFrame]
@[simp] theorem State.stackFrame_run (s : State) (p : Word) : (s.stackFrame p).run = s.run := by simp [State.stackFrame]
@[simp] theorem State.stackFrame_iDelay (s : State) (p : Word) : (s.stackFrame p).iDelay = s.iDelay := by simp [State.stackFrame]
@[simp] theorem State.stackFrame_config (s : State) (p : Word) : (s.stackFrame p).config = s.config := by simp [State.stackFrame]
@[simp] theorem State.stackFrame_oracle (s : State) (p : Word) : (s.stackFrame p).oracle = s.oracle := by simp [State.stackFrame]
@[simp] theorem State.stackFrame_draws (s : State) (p : Word) : (s.stackFrame p).draws = s.draws := by simp [State.stackFrame]

@[simp] theorem State.stackFrame_sp (s : State) (p : Word) : (s.stackFrame p).sp = s.sp - 9 := by
  simp only [State.stackFrame, State.push8_sp, State.push16_sp]
  exact ((congrArg (fun y => y - 1 - 1 - 1) (congrArg (· - 2) (word_sub_sub s.sp 2 2))).trans
    (congrArg (fun y => y - 1 - 1 - 1) (word_sub_sub s.sp 4 2))).trans
    ((congrArg (fun y => y - 1 - 1) (word_sub_sub s.sp 6 1)).trans
      ((congrArg (· - 1) (word_sub_sub s.sp 7 1)).trans (word_sub_sub s.sp 8 1)))

/-! ### What a store, a push and the frame do to memory -/

@[simp] theorem State.writeWord_kindAt (s : State) (x v c : Word) :
    (s.writeWord x v).kindAt c = s.kindAt c := by simp [State.writeWord]
@[simp] theorem State.push8_kindAt (s : State) (v : Byte) (c : Word) :
    (s.push8 v).kindAt c = s.kindAt c := by simp [State.push8]
@[simp] theorem State.push16_kindAt (s : State) (v c : Word) :
    (s.push16 v).kindAt c = s.kindAt c := by simp [State.push16]
@[simp] theorem State.drop8_kindAt (s : State) (c : Word) : s.drop8.kindAt c = s.kindAt c := by
  simp [State.drop8]
@[simp] theorem State.drop16_kindAt (s : State) (c : Word) : s.drop16.kindAt c = s.kindAt c := by
  simp [State.drop16]
@[simp] theorem State.stackFrame_kindAt (s : State) (p c : Word) :
    (s.stackFrame p).kindAt c = s.kindAt c := by simp [State.stackFrame]

/-- `MemWrite(addr, 1, v)` in the terms of the statements. -/
theorem State.writeByte_stores (s : State) (a : Word) (v : Byte) :
    StoresByte s (s.writeByte a v) a v := by
  refine ⟨fun h => ?_, fun h => ⟨State.writeByte_devices h v, fun x => State.readByte_writeByte h x v⟩⟩
  rw [State.writeByte_device h]
  exact ⟨rfl, rfl⟩

/-- Several stores, one after the other. -/
def State.writes (s : State) : List (Word × Byte) → State
  | [] => s
  | (a, v) :: rest => State.writes (s.writeByte a v) rest

/-- Several stores in the terms of the statements. -/
theorem State.writes_stores (s : State) (l : List (Word × Byte)) : StoresAll l s (s.writes l) := by
  induction l generalizing s with
  | nil => exact ⟨rfl, rfl⟩
  | cons e l ih => exact ⟨_, State.writeByte_frame s e.1 e.2, State.writeByte_stores s e.1 e.2, ih _⟩

/-- The stores say nothing about the registers. -/
theorem StoresAll.congr {l : List (Word × Byte)} {s t u : State} (h : StoresAll l s t)
    (mem : u.mem = t.mem) (devices : u.devices = t.devices) : StoresAll l s u := by
  induction l generalizing s with
  | nil => exact ⟨mem.trans h.1, devices.trans h.2⟩
  | cons e l ih =>
    obtain ⟨w, h1, h2, h3⟩ := h
    exact ⟨w, h1, h2, ih h3⟩

/-- Several stores change memory and the devices, and no other field. -/
theorem State.writes_frame (s : State) (l : List (Word × Byte)) :
    s.writes l = { s with mem := (s.writes l).mem, devices := (s.writes l).devices } := by
  induction l generalizing s with
  | nil => rfl
  | cons e l ih =>
    show (s.writeByte e.1 e.2).writes l = _
    rw [ih (s.writeByte e.1 e.2)]
    apply State.ext_fields <;> simp [State.writes]

theorem State.writes_kindAt (s : State) (l : List (Word × Byte)) (c : Word) :
    (s.writes l).kindAt c = s.kindAt c := by
  rw [State.writes_frame]
  rfl

/-- Stores at no device leave the devices alone. -/
theorem State.writes_devices {s : State} {l : List (Word × Byte)}
    (h : ∀ e ∈ l, s.kindAt e.1 ≠ .device) : (s.writes l).devices = s.devices := by
  induction l generalizing s with
  | nil => rfl
  | cons e l ih =>
    exact (ih (s := s.writeByte e.1 e.2) fun q hq => by
      rw [State.writeByte_kindAt]; exact h q (List.mem_cons_of_mem _ hq)).trans
        (State.writeByte_devices (h e List.mem_cons_self) _)

/-- A byte at which no store of storage is made reads as before. -/
theorem State.readByte_writes_other {s : State} {l : List (Word × Byte)} (x : Word)
    (h : ∀ e ∈ l, s.kindAt e.1 ≠ .device) (h' : ∀ e ∈ l, x = e.1 → s.kindAt x ≠ .storage) :
    (s.writes l).readByte x = s.readByte x := by
  induction l generalizing s with
  | nil => rfl
  | cons e l ih =>
    have hd := h e List.mem_cons_self
    have hn : ¬ (x = e.1 ∧ s.kindAt e.1 = .storage) := fun q => h' e List.mem_cons_self q.1 (q.1 ▸ q.2)
    have := ih (s := s.writeByte e.1 e.2) (fun q hq => by simpa using h q (List.mem_cons_of_mem _ hq))
      (fun q hq => by simpa using h' q (List.mem_cons_of_mem _ hq))
    rwa [State.readByte_writeByte hd, if_neg hn] at this

/-- Of stores at addresses all different, each of storage is read back. -/
theorem State.readByte_writes_mem {s : State} {l : List (Word × Byte)} {x : Word} {v : Byte}
    (h : ∀ e ∈ l, s.kindAt e.1 ≠ .device) (hd : (l.map Prod.fst).Nodup) (hm : (x, v) ∈ l)
    (hx : s.kindAt x = .storage) : (s.writes l).readByte x = v := by
  induction l generalizing s with
  | nil => cases hm
  | cons e l ih =>
    have he := h e List.mem_cons_self
    have hl : ∀ q ∈ l, (s.writeByte e.1 e.2).kindAt q.1 ≠ .device :=
      fun q hq => by simpa using h q (List.mem_cons_of_mem _ hq)
    rw [List.map_cons, List.nodup_cons] at hd
    rcases List.mem_cons.mp hm with rfl | hm
    · have := (State.readByte_writes_other x hl fun q hq hxq =>
        absurd (List.mem_map_of_mem (f := Prod.fst) hq) (hxq ▸ hd.1))
      exact this.trans ((State.readByte_writeByte he x v).trans (if_pos ⟨rfl, hx⟩))
    · exact ih hl hd.2 hm (by simpa using hx)

theorem State.writes_wf {s : State} (h : s.mem.wf = true) (l : List (Word × Byte)) :
    (s.writes l).mem.wf = true := by
  induction l generalizing s with
  | nil => exact h
  | cons e l ih => exact ih (State.writeByte_wf h _ _)

theorem word_ne_add_one (a : Word) : a + 1 ≠ a := by
  intro h
  have := congrArg BitVec.toNat h
  simp only [BitVec.toNat_add] at this
  have h1 : BitVec.toNat (1 : Word) = 1 := rfl
  have := a.isLt
  omega

/-- `MemWrite(addr, 2, v)` in the terms of the statements (R63). -/
theorem State.writeWord_stores (s : State) (a v : Word) : StoresWord s (s.writeWord a v) a v := by
  refine ⟨State.writes_stores s [(a, highByte v), (a + 1, lowByte v)], fun h h' => ?_⟩
  have h2 : (s.writeByte a (highByte v)).kindAt (a + 1) ≠ .device := by
    rwa [State.writeByte_kindAt]
  refine ⟨(State.writeByte_devices h2 _).trans (State.writeByte_devices h _), fun x => ?_⟩
  rw [State.writeWord, State.readByte_writeByte h2, State.readByte_writeByte h, State.writeByte_kindAt]
  by_cases h1 : x = a + 1
  · have h2 : x ≠ a := h1 ▸ word_ne_add_one a
    simp only [h2, false_and, if_false]
  · simp only [h1, false_and, if_false]

/-- A word store changes memory and the devices, and no other field. -/
theorem State.writeWord_frame (s : State) (a v : Word) :
    s.writeWord a v = { s with mem := (s.writeWord a v).mem, devices := (s.writeWord a v).devices } :=
  State.writes_frame s [(a, highByte v), (a + 1, lowByte v)]

/-- A word read back after it was stored (R63), where both cells are storage. -/
theorem State.readWord_writeWord (s : State) (a v : Word) (h : s.IsStorage a)
    (h' : s.IsStorage (a + 1)) : (s.writeWord a v).readWord a = v := by
  simp only [State.IsStorage] at h h'
  have hs := (State.writeWord_stores s a v).2 (by simp [State.IsPlain, h]) (by rw [State.IsPlain, h']; decide)
  have h1 := hs.2 a
  have h2 := hs.2 (a + 1)
  simp only [h, h', word_ne_add_one, false_and, if_true, if_false, and_self] at h1 h2
  rw [State.readWord_plain (by simp [h]), h1, h2, wordOf_high_low]

/-- `Push8` (R130) on memory. -/
theorem State.push8_stores (s : State) (v : Byte) : StoresByte s (s.push8 v) s.sp v :=
  State.writeByte_stores s s.sp v

/-- `Push8` changes SP, memory and the devices and no other field (R130). -/
theorem State.push8_frame (s : State) (v : Byte) :
    s.push8 v = { s with
      sp := s.sp - 1, mem := (s.push8 v).mem, devices := (s.push8 v).devices } := by
  apply State.ext_fields <;> simp

/-- `Push16` changes SP, memory and the devices and no other field (R132). -/
theorem State.push16_frame (s : State) (v : Word) :
    s.push16 v = { s with
      sp := s.sp - 2, mem := (s.push16 v).mem, devices := (s.push16 v).devices } := by
  apply State.ext_fields <;> simp

/-- `Push16` as its two stores (R132), the low byte first. -/
theorem State.push16_eq (s : State) (v : Word) :
    s.push16 v = (s.writes [(s.sp, lowByte v), (s.sp - 1, highByte v)]).setSP (s.sp - 2) := by
  have h : s.sp - 1 - 1 = s.sp - 2 := word_sub_sub s.sp 1 1
  simp only [State.push16, State.push8, State.setSP_writeByte, State.setSP_sp, h]
  rfl

/-- `Push16` (R132) on memory: the high byte at the lower of the two addresses. -/
theorem State.push16_stores (s : State) (v : Word) : PushesWord s (s.push16 v) v := by
  have h1 : s.sp - 1 + 1 = s.sp := BitVec.sub_add_cancel _ _
  have hw := State.writes_stores s [(s.sp, lowByte v), (s.sp - 1, highByte v)]
  rw [State.push16_eq]
  refine ⟨hw.congr rfl rfl, fun h h' => ?_⟩
  rw [h1] at h' ⊢
  have h2 : (s.writeByte s.sp (lowByte v)).kindAt (s.sp - 1) ≠ .device := by
    rwa [State.writeByte_kindAt]
  refine ⟨(State.writeByte_devices h2 _).trans (State.writeByte_devices h' _), fun x => ?_⟩
  show ((s.writeByte s.sp (lowByte v)).writeByte (s.sp - 1) (highByte v)).readByte x = _
  rw [State.readByte_writeByte h2, State.readByte_writeByte h', State.writeByte_kindAt]

/-- The frame changes SP, memory and the devices and no other field (R505). -/
theorem State.stackFrame_frame (s : State) (p : Word) :
    s.stackFrame p = { s with
      sp := s.sp - 9, mem := (s.stackFrame p).mem, devices := (s.stackFrame p).devices } := by
  apply State.ext_fields <;> simp

theorem State.writes_append (s : State) (l l' : List (Word × Byte)) :
    s.writes (l ++ l') = (s.writes l).writes l' := by
  induction l generalizing s with
  | nil => rfl
  | cons e l ih => exact ih _

/-- One push more after several stores. -/
theorem State.writes_push8 (s : State) (l : List (Word × Byte)) (x : Word) (v : Byte) :
    ((s.writes l).setSP x).push8 v = (s.writes (l ++ [(x, v)])).setSP (x - 1) := by
  rw [State.push8, State.setSP_sp, State.setSP_writeByte, State.writes_append]
  rfl

/-- The frame as its nine stores (R505). -/
theorem State.stackFrame_eq (s : State) (p : Word) :
    s.stackFrame p = (s.writes (frameStores s p)).setSP (s.sp - 9) := by
  have e : ∀ j k : Nat, s.sp - BitVec.ofNat 16 j - BitVec.ofNat 16 k = s.sp - BitVec.ofNat 16 (j + k) :=
    word_sub_sub s.sp
  have h2 : s.sp - 1 - 1 = s.sp - 2 := e 1 1
  have h3 : s.sp - 2 - 1 = s.sp - 3 := e 2 1
  have h4 : s.sp - 3 - 1 = s.sp - 4 := e 3 1
  have h5 : s.sp - 4 - 1 = s.sp - 5 := e 4 1
  have h6 : s.sp - 5 - 1 = s.sp - 6 := e 5 1
  have h7 : s.sp - 6 - 1 = s.sp - 7 := e 6 1
  have h8 : s.sp - 7 - 1 = s.sp - 8 := e 7 1
  have h9 : s.sp - 8 - 1 = s.sp - 9 := e 8 1
  have h0 : s.sp - BitVec.ofNat 16 0 = s.sp := BitVec.sub_zero _
  have first : s.push8 (lowByte p) = (s.writes [(s.sp, lowByte p)]).setSP (s.sp - 1) := rfl
  simp only [State.stackFrame, State.push16, first, State.writes_push8, h2, h3, h4, h5, h6, h7, h8, h9,
    frameStores, List.range_eq_range', List.range', List.map, h0]
  rfl

theorem word_above (x : Word) (k : Nat) (h : k ≤ 9) :
    x - 9 + BitVec.ofNat 16 k = x - BitVec.ofNat 16 (9 - k) := by
  have e : (9 : Word) = BitVec.ofNat 16 (9 - k) + BitVec.ofNat 16 k := by
    rw [← BitVec.ofNat_add, Nat.sub_add_cancel h]
    rfl
  conv => lhs; rw [e]
  rw [← BitVec.sub_sub, BitVec.sub_add_cancel]

theorem word_sub_inj (x : Word) {i j : Nat} (hi : i < 16) (hj : j < 16)
    (h : x - BitVec.ofNat 16 i = x - BitVec.ofNat 16 j) : i = j := by
  bv_omega

/-- The nine-byte frame in the terms of the statements (R505). -/
theorem State.stackFrame_stacks (s : State) (p : Word) : StacksFrame s (s.stackFrame p) p where
  pointer := State.stackFrame_sp s p
  stores := by
    rw [State.stackFrame_eq]
    exact (State.writes_stores s _).congr (State.setSP_mem _ _) (State.setSP_devices _ _)
  cells := by
    have ha : ∀ k, k ≤ 9 → (s.stackFrame p).above k = s.sp - BitVec.ofNat 16 (9 - k) :=
      fun k hk => by rw [State.above, State.stackFrame_sp, word_above _ _ hk]
    intro hp
    have hmem : ∀ e ∈ frameStores s p, ∃ k, 1 ≤ k ∧ k ≤ 9 ∧ e.1 = (s.stackFrame p).above k := by
      intro e he
      obtain ⟨j, hj, rfl⟩ := List.mem_map.mp he
      rw [List.mem_range] at hj
      refine ⟨9 - j, by omega, by omega, ?_⟩
      rw [ha _ (by omega), show 9 - (9 - j) = j by omega]
    have hplain : ∀ e ∈ frameStores s p, s.kindAt e.1 ≠ .device := by
      intro e he
      obtain ⟨k, h1, h9, hk⟩ := hmem e he
      exact hk ▸ hp k h1 h9
    have hread : ∀ x, (s.stackFrame p).readByte x = (s.writes (frameStores s p)).readByte x :=
      fun x => by rw [State.stackFrame_eq, State.setSP_readByte]
    have hdev : (s.stackFrame p).devices = (s.writes (frameStores s p)).devices := by
      rw [State.stackFrame_eq, State.setSP_devices]
    refine ⟨?_, ?_, ?_⟩
    · exact hdev.trans (State.writes_devices hplain)
    · intro k h1 h9 hk
      rw [hread]
      refine State.readByte_writes_mem hplain ?_ ?_ hk
      · rw [frameStores, List.map_map]
        refine List.Nodup.map_on (fun i hi j hj h => ?_) List.nodup_range
        rw [List.mem_range] at hi hj
        exact word_sub_inj s.sp (by omega) (by omega) h
      · refine List.mem_map.mpr ⟨9 - k, List.mem_range.mpr (by omega), ?_⟩
        rw [ha k h9, show 9 - (9 - k) = k by omega]
    · intro x hx
      rw [hread]
      refine State.readByte_writes_other x hplain fun e he hxe => ?_
      obtain ⟨k, h1, h9, hk⟩ := hmem e he
      exact hx k h1 h9 (hxe.trans hk)

/-! ### Taking an exception -/

theorem State.enter_stack (s : State) (v p : Word) (setX : Bool) :
    s.enter v p setX true = (s.stackFrame p).vectorTo v setX := rfl

theorem State.vectorTo_mem (s : State) (v : Word) (setX : Bool) :
    (s.vectorTo v setX).mem = (s.readingWord v).mem := rfl

/-- An entry with stacking in the terms of the statements (R506). -/
theorem State.enter_enters (s : State) (v p : Word) (setX : Bool) :
    Enters s (s.enter v p setX true) v p setX :=
  ⟨_, State.stackFrame_stacks s p, State.stackFrame_frame s p, by
    rw [State.enter_stack, State.vectorTo, State.stackFrame_ccr]⟩

/-- An entry without stacking (R518): I, X for an xirq, `i_delay`, PC and `run`, and nothing else but the effect
of reading the vector. -/
theorem State.enter_noStack (s : State) (v p : Word) (setX : Bool) :
    s.enter v p setX false = { s.readingWord v with
      ccr := { s.ccr with i := true, x := setX || s.ccr.x }
      iDelay := false
      pc := s.readWord v
      run := .running } := rfl

/-- The illegal-opcode trap is an entry through VEC_ILLOP (R507), with one of the two return addresses. -/
theorem State.illegalOpcode_enters (s : State) (p : Word) (k : Nat) :
    Enters s (s.illegalOpcode p k) s.config.vecIllop
      (match s.config.illegalStackedPc with
        | .opcodeAddress => p
        | .nextAddress => p + BitVec.ofNat 16 k) false := by
  unfold State.illegalOpcode
  cases s.config.illegalStackedPc <;> exact State.enter_enters s _ _ _

/-- `Pull16` as the read of a word (R133): SP, and the side effects of the two reads. -/
theorem State.drop16_eq (s : State) : s.drop16 = { s.readingWord (s.sp + 1) with sp := s.sp + 2 } := by
  apply State.ext_fields <;>
    simp [State.drop16_sp] <;> simp [State.drop16, State.drop8, State.setSP_reading, State.readingWord]

/-- `Pull16` by the numbers (R133). -/
theorem State.top16_toNat (s : State) : s.top16.toNat =
    256 * (s.readByte (s.sp + 1)).toNat + ((s.reading (s.sp + 1)).readByte (s.sp + 2)).toNat := by
  have e : s.sp + 1 + 1 = s.sp + 2 := word_add_add s.sp 1 1
  rw [State.top16, wordOf_toNat, State.top8, State.top8, State.drop8_sp, e]
  rfl

/-- Where no device stands below it, the byte of a pull is the byte that stands there. -/
theorem State.pulled_plain {s : State} {k : Nat}
    (h : ∀ a ∈ addressesFrom (s.sp + 1) (k - 1), s.kindAt a ≠ .device) :
    s.pulled k = s.readByte (s.above k) := by
  rw [State.pulled, State.readings_plain h]

theorem mem_addressesFrom {a x : Word} {k : Nat} (h : x ∈ addressesFrom a k) :
    ∃ j, j < k ∧ x = a + BitVec.ofNat 16 j := by
  induction k generalizing a with
  | zero => cases h
  | succ k ih =>
    rcases List.mem_cons.mp h with rfl | h
    · exact ⟨0, Nat.succ_pos k, (BitVec.add_zero x).symm⟩
    · obtain ⟨j, hj, rfl⟩ := ih h
      refine ⟨j + 1, by omega, ?_⟩
      rw [Nat.add_comm j 1]
      exact word_add_add a 1 j

/-- The return (R364, R509): every register that it writes, from the nine cells above SP, each read after those
below it. -/
theorem State.returnFromInterrupt_eq (s : State) :
    s.returnFromInterrupt = { s.readings (addressesFrom (s.sp + 1) 9) with
      ccr := s.ccr.write (s.pulled 1)
      b := s.pulled 2
      a := s.pulled 3
      ix := wordOf (s.pulled 4) (s.pulled 5)
      iy := wordOf (s.pulled 6) (s.pulled 7)
      pc := wordOf (s.pulled 8) (s.pulled 9)
      sp := s.above 9 } := by
  have e : ∀ k : Nat, s.above (k + 1) = s.above k + 1 := fun k => (word_add_add s.sp k 1).symm
  have h1 : s.above 1 = s.sp + 1 := rfl
  apply State.ext_fields <;>
    simp [State.returnFromInterrupt, State.top8, State.top16, State.drop16, State.drop8, State.pulled,
      State.readings, addressesFrom, State.setCCR_reading, State.setSP_reading, State.setA_reading,
      State.setB_reading, State.setIX_reading, State.setIY_reading, e 1, e 2, e 3, e 4, e 5, e 6, e 7, e 8, h1]

theorem State.returnFromInterrupt_wf {s : State} (h : s.mem.wf = true) :
    s.returnFromInterrupt.mem.wf = true := by
  rw [State.returnFromInterrupt_eq]
  exact State.readings_wf h _

/-- What a reset request does (R550, R551): the masks, `i_delay`, `run` and PC; the parameters, the oracle and the
draw counter are kept, and memory but for the effect of reading the vector; the rest is whatever
`Config.resetRegs` says. -/
theorem State.takeReset_eq (s : State) (v : Word) :
    ∃ a b ix iy sp h n z vv c, s.takeReset v = { s.readingWord v with
      a := a, b := b, ix := ix, iy := iy, sp := sp
      ccr := { s := true, x := true, h := h, i := true, n := n, z := z, v := vv, c := c }
      iDelay := false
      run := .running
      pc := s.readWord v } :=
  ⟨_, _, _, _, _, _, _, _, _, _, rfl⟩

/-! ### Shapes of instructions -/

/-- Read, compute and write back (R61), in the terms of the statements. -/
theorem State.modifyByte_stores (s : State) (m : Mem) (op : Byte → CCR → Byte × CCR) :
    StoresByte (s.reading (s.ea m)) (s.modifyByte m op) (s.ea m) (op (s.readByte (s.ea m)) s.ccr).1 :=
  State.writeByte_stores (s.reading (s.ea m)) (s.ea m) _

theorem State.modifyByte_frame (s : State) (m : Mem) (op : Byte → CCR → Byte × CCR) :
    s.modifyByte m op = { s with
      ccr := (op (s.readByte (s.ea m)) s.ccr).2
      mem := (s.modifyByte m op).mem
      devices := (s.modifyByte m op).devices } := by
  apply State.ext_fields <;> simp [State.modifyByte]

theorem State.storeByte_stores (s : State) (m : Mem) (v : Byte) :
    StoresByte s (s.storeByte m v) (s.ea m) v := State.writeByte_stores s (s.ea m) v

theorem State.storeByte_frame (s : State) (m : Mem) (v : Byte) :
    s.storeByte m v = { s with
      ccr := s.ccr.logic v, mem := (s.storeByte m v).mem, devices := (s.storeByte m v).devices } := by
  apply State.ext_fields <;> simp [State.storeByte]

theorem State.storeWord_stores (s : State) (m : Mem) (v : Word) :
    StoresWord s (s.storeWord m v) (s.ea m) v :=
  ⟨(State.writes_stores s [(s.ea m, highByte v), (s.ea m + 1, lowByte v)]).congr rfl rfl,
    (State.writeWord_stores s (s.ea m) v).2⟩

theorem State.storeWord_frame (s : State) (m : Mem) (v : Word) :
    s.storeWord m v = { s with
      ccr := s.ccr.logic v, mem := (s.storeWord m v).mem, devices := (s.storeWord m v).devices } := by
  apply State.ext_fields <;> simp [State.storeWord]

/-- A branch changes PC alone (R127). -/
theorem State.branchIf_eq (s : State) (cond : Bool) (rr : Byte) :
    s.branchIf cond rr = { s with pc := if cond then s.relTarget rr else s.pc } := by
  unfold State.branchIf
  split <;> rfl

/-- A branch target by the numbers (R127). -/
theorem State.relTarget_eq (s : State) (rr : Byte) : s.relTarget rr = s.branchTarget rr := by
  apply BitVec.eq_of_toInt_eq
  simp only [State.relTarget, State.branchTarget, BitVec.toInt_add, BitVec.toInt_signExtend_of_le (by decide : 8 ≤ 16),
    BitVec.toInt_ofInt, BitVec.toInt_eq_toNat_bmod s.pc]
  simp [Int.bmod_add_bmod]

/-! ### The canonical form of memory -/

theorem State.writeWord_wf {s : State} (h : s.mem.wf = true) (a v : Word) :
    (s.writeWord a v).mem.wf = true := State.writeByte_wf (State.writeByte_wf h _ _) _ _

theorem State.push8_wf {s : State} (h : s.mem.wf = true) (v : Byte) : (s.push8 v).mem.wf = true :=
  State.writeByte_wf h _ _

theorem State.push16_wf {s : State} (h : s.mem.wf = true) (v : Word) : (s.push16 v).mem.wf = true :=
  State.push8_wf (State.push8_wf h _) _

theorem State.stackFrame_wf {s : State} (h : s.mem.wf = true) (p : Word) :
    (s.stackFrame p).mem.wf = true :=
  State.push8_wf (State.push8_wf (State.push8_wf (State.push16_wf (State.push16_wf
    (State.push16_wf h _) _) _) _) _) _

theorem State.enter_wf {s : State} (h : s.mem.wf = true) (v p : Word) (setX stack : Bool) :
    (s.enter v p setX stack).mem.wf = true := by
  cases stack
  · exact State.readingWord_wf h v
  · rw [State.enter_stack, State.vectorTo_mem]
    exact State.readingWord_wf (State.stackFrame_wf h p) v

theorem State.illegalOpcode_wf {s : State} (h : s.mem.wf = true) (p : Word) (k : Nat) :
    (s.illegalOpcode p k).mem.wf = true := by
  unfold State.illegalOpcode
  split <;> exact State.enter_wf h _ _ _ _

theorem State.modifyByte_wf {s : State} (h : s.mem.wf = true) (m : Mem)
    (op : Byte → CCR → Byte × CCR) : (s.modifyByte m op).mem.wf = true :=
  State.writeByte_wf (State.reading_wf h _) _ _

theorem State.drop8_wf {s : State} (h : s.mem.wf = true) : s.drop8.mem.wf = true := State.reading_wf h _

theorem State.drop16_wf {s : State} (h : s.mem.wf = true) : s.drop16.mem.wf = true :=
  State.drop8_wf (State.drop8_wf h)

theorem State.branchIf_wf {s : State} (h : s.mem.wf = true) (c : Bool) (rr : Byte) :
    (s.branchIf c rr).mem.wf = true := by
  unfold State.branchIf
  split <;> exact h

theorem State.storeByte_wf {s : State} (h : s.mem.wf = true) (m : Mem) (v : Byte) :
    (s.storeByte m v).mem.wf = true := State.writeByte_wf h _ _

theorem State.storeWord_wf {s : State} (h : s.mem.wf = true) (m : Mem) (v : Word) :
    (s.storeWord m v).mem.wf = true := State.writeWord_wf h _ _

/-! ### The CCR as a byte -/

/-- A byte written to the CCR, read back (R140): the byte itself, but that X can only fall. -/
theorem CCR.toByte_write (f : CCR) (v : Byte) :
    (f.write v).toByte = if f.x then v else v &&& 0xBF := by
  have key : ∀ b7 b6 b5 b4 b3 b2 b1 b0 x : Bool,
      BitVec.ofBool b7 ++ BitVec.ofBool (x && b6) ++ BitVec.ofBool b5 ++ BitVec.ofBool b4 ++
        BitVec.ofBool b3 ++ BitVec.ofBool b2 ++ BitVec.ofBool b1 ++ BitVec.ofBool b0 =
      if x then BitVec.ofBool b7 ++ BitVec.ofBool b6 ++ BitVec.ofBool b5 ++ BitVec.ofBool b4 ++
        BitVec.ofBool b3 ++ BitVec.ofBool b2 ++ BitVec.ofBool b1 ++ BitVec.ofBool b0
      else (BitVec.ofBool b7 ++ BitVec.ofBool b6 ++ BitVec.ofBool b5 ++ BitVec.ofBool b4 ++
        BitVec.ofBool b3 ++ BitVec.ofBool b2 ++ BitVec.ofBool b1 ++ BitVec.ofBool b0) &&& 0xBF := by
    decide
  have hv : BitVec.ofBool (v.getLsbD 7) ++ BitVec.ofBool (v.getLsbD 6) ++ BitVec.ofBool (v.getLsbD 5) ++
      BitVec.ofBool (v.getLsbD 4) ++ BitVec.ofBool (v.getLsbD 3) ++ BitVec.ofBool (v.getLsbD 2) ++
      BitVec.ofBool (v.getLsbD 1) ++ BitVec.ofBool (v.getLsbD 0) = v := by
    revert v
    decide
  simp only [CCR.toByte, CCR.write, key, hv]

/-- The CCR written from its own byte is itself where X does not stand in the way (R140). -/
theorem CCR.write_toByte (f g : CCR) (h : g.x = true ∨ f.x = false) : g.write f.toByte = f := by
  obtain ⟨s, x, h', i, n, z, v, c⟩ := f
  obtain ⟨s', x', h'', i', n', z', v', c'⟩ := g
  simp only at h
  cases s <;> cases x <;> cases h' <;> cases i <;> cases n <;> cases z <;> cases v <;> cases c <;>
    cases x' <;> simp_all [CCR.write, CCR.toByte]

end Sys2Proof.Machine
end

