-- ==== Sys2Proof/Laws/PerInstr.lean ====
section
/-! SUPPORT. Statements for all instructions, made per instruction. -/

/-- A well-formed instruction is encoded in 1 to 5 bytes (R80, R83). -/
def Sys2Proof.Laws.EncodingLength.Statement (i : Sys2Proof.Instr) : Prop :=
  i.wf = true → 1 ≤ (Sys2Proof.encode i).length ∧ (Sys2Proof.encode i).length ≤ 5

namespace Sys2Proof.Laws

theorem encodeMem_length (d e x y : List Byte) (m : Mem) (hd : d.length ≤ 2) (he : e.length ≤ 2)
    (hx : x.length ≤ 2) (hy : y.length ≤ 2) :
    1 ≤ (encodeMem d e x y m).length ∧ (encodeMem d e x y m).length ≤ 4 := by
  cases m <;> simp only [encodeMem, List.length_append, List.length_cons, List.length_nil] <;> omega

/-- A form without EXT has at most one operand byte. -/
theorem encodeMem_length_noExt (d e x y : List Byte) (m : Mem) (h : m.hasNoExt = true)
    (hd : d.length ≤ 2) (hx : x.length ≤ 2) (hy : y.length ≤ 2) :
    1 ≤ (encodeMem d e x y m).length ∧ (encodeMem d e x y m).length ≤ 3 := by
  cases m <;> simp only [encodeMem, List.length_append, List.length_cons, List.length_nil] <;>
    first | omega | simp [Mem.hasNoExt] at h

theorem encodeSrc8_length (i d e x y : List Byte) (o : Src8) (hi : i.length ≤ 2) (hd : d.length ≤ 2)
    (he : e.length ≤ 2) (hx : x.length ≤ 2) (hy : y.length ≤ 2) :
    1 ≤ (encodeSrc8 i d e x y o).length ∧ (encodeSrc8 i d e x y o).length ≤ 5 := by
  cases o with
  | imm v => simp only [encodeSrc8, List.length_append, List.length_cons, List.length_nil]; omega
  | mem m =>
    have := encodeMem_length d e x y m hd he hx hy
    simp only [encodeSrc8]
    omega

theorem encodeSrc16_length (i d e x y : List Byte) (o : Src16) (hi : i.length ≤ 2) (hd : d.length ≤ 2)
    (he : e.length ≤ 2) (hx : x.length ≤ 2) (hy : y.length ≤ 2) :
    1 ≤ (encodeSrc16 i d e x y o).length ∧ (encodeSrc16 i d e x y o).length ≤ 5 := by
  cases o with
  | imm v => simp only [encodeSrc16, List.length_append, List.length_cons, List.length_nil]; omega
  | mem m =>
    have := encodeMem_length d e x y m hd he hx hy
    simp only [encodeSrc16]
    omega

theorem rel_length (b rr : Byte) : 1 ≤ ([b] ++ [rr]).length ∧ ([b] ++ [rr]).length ≤ 5 :=
  ⟨Nat.le_succ 1, by show 2 ≤ 5; decide⟩

theorem bits_length (l k : List Byte) (h : 1 ≤ l.length ∧ l.length ≤ 3) (hk : k.length ≤ 2) :
    1 ≤ (l ++ k).length ∧ (l ++ k).length ≤ 5 := by
  rw [List.length_append]
  omega

namespace EncodingLength

theorem aba : Statement .aba := fun _ => by decide
theorem abx : Statement .abx := fun _ => by decide
theorem aby : Statement .aby := fun _ => by decide
theorem adca (o : Src8) : Statement (.adca o) := fun _ =>
  encodeSrc8_length _ _ _ _ _ o (by decide) (by decide) (by decide) (by decide) (by decide)
theorem adcb (o : Src8) : Statement (.adcb o) := fun _ =>
  encodeSrc8_length _ _ _ _ _ o (by decide) (by decide) (by decide) (by decide) (by decide)
theorem adda (o : Src8) : Statement (.adda o) := fun _ =>
  encodeSrc8_length _ _ _ _ _ o (by decide) (by decide) (by decide) (by decide) (by decide)
theorem addb (o : Src8) : Statement (.addb o) := fun _ =>
  encodeSrc8_length _ _ _ _ _ o (by decide) (by decide) (by decide) (by decide) (by decide)
theorem addd (o : Src16) : Statement (.addd o) := fun _ =>
  encodeSrc16_length _ _ _ _ _ o (by decide) (by decide) (by decide) (by decide) (by decide)
theorem anda (o : Src8) : Statement (.anda o) := fun _ =>
  encodeSrc8_length _ _ _ _ _ o (by decide) (by decide) (by decide) (by decide) (by decide)
theorem andb (o : Src8) : Statement (.andb o) := fun _ =>
  encodeSrc8_length _ _ _ _ _ o (by decide) (by decide) (by decide) (by decide) (by decide)
theorem asl (m : Mem) : Statement (.asl m) := fun _ =>
  (encodeMem_length _ _ _ _ m (by decide) (by decide) (by decide) (by decide)).imp_right fun h => Nat.le_succ_of_le h
theorem asla : Statement .asla := fun _ => by decide
theorem aslb : Statement .aslb := fun _ => by decide
theorem asld : Statement .asld := fun _ => by decide
theorem asr (m : Mem) : Statement (.asr m) := fun _ =>
  (encodeMem_length _ _ _ _ m (by decide) (by decide) (by decide) (by decide)).imp_right fun h => Nat.le_succ_of_le h
theorem asra : Statement .asra := fun _ => by decide
theorem asrb : Statement .asrb := fun _ => by decide
theorem bcc (rr : Byte) : Statement (.bcc rr) := fun _ => rel_length _ rr
theorem bclr (m : Mem) (mm : Byte) : Statement (.bclr m mm) := fun h =>
  bits_length _ [mm] (encodeMem_length_noExt _ _ _ _ m h (by decide) (by decide) (by decide)) (Nat.le_succ 1)
theorem bcs (rr : Byte) : Statement (.bcs rr) := fun _ => rel_length _ rr
theorem beq (rr : Byte) : Statement (.beq rr) := fun _ => rel_length _ rr
theorem bge (rr : Byte) : Statement (.bge rr) := fun _ => rel_length _ rr
theorem bgt (rr : Byte) : Statement (.bgt rr) := fun _ => rel_length _ rr
theorem bhi (rr : Byte) : Statement (.bhi rr) := fun _ => rel_length _ rr
theorem bhs (rr : Byte) : Statement (.bhs rr) := fun _ => rel_length _ rr
theorem bita (o : Src8) : Statement (.bita o) := fun _ =>
  encodeSrc8_length _ _ _ _ _ o (by decide) (by decide) (by decide) (by decide) (by decide)
theorem bitb (o : Src8) : Statement (.bitb o) := fun _ =>
  encodeSrc8_length _ _ _ _ _ o (by decide) (by decide) (by decide) (by decide) (by decide)
theorem ble (rr : Byte) : Statement (.ble rr) := fun _ => rel_length _ rr
theorem blo (rr : Byte) : Statement (.blo rr) := fun _ => rel_length _ rr
theorem bls (rr : Byte) : Statement (.bls rr) := fun _ => rel_length _ rr
theorem blt (rr : Byte) : Statement (.blt rr) := fun _ => rel_length _ rr
theorem bmi (rr : Byte) : Statement (.bmi rr) := fun _ => rel_length _ rr
theorem bne (rr : Byte) : Statement (.bne rr) := fun _ => rel_length _ rr
theorem bpl (rr : Byte) : Statement (.bpl rr) := fun _ => rel_length _ rr
theorem bra (rr : Byte) : Statement (.bra rr) := fun _ => rel_length _ rr
theorem brclr (m : Mem) (mm rr : Byte) : Statement (.brclr m mm rr) := fun h =>
  bits_length _ [mm, rr] (encodeMem_length_noExt _ _ _ _ m h (by decide) (by decide) (by decide)) (Nat.le_refl 2)
theorem brn (rr : Byte) : Statement (.brn rr) := fun _ => rel_length _ rr
theorem brset (m : Mem) (mm rr : Byte) : Statement (.brset m mm rr) := fun h =>
  bits_length _ [mm, rr] (encodeMem_length_noExt _ _ _ _ m h (by decide) (by decide) (by decide)) (Nat.le_refl 2)
theorem bset (m : Mem) (mm : Byte) : Statement (.bset m mm) := fun h =>
  bits_length _ [mm] (encodeMem_length_noExt _ _ _ _ m h (by decide) (by decide) (by decide)) (Nat.le_succ 1)
theorem bsr (rr : Byte) : Statement (.bsr rr) := fun _ => rel_length _ rr
theorem bvc (rr : Byte) : Statement (.bvc rr) := fun _ => rel_length _ rr
theorem bvs (rr : Byte) : Statement (.bvs rr) := fun _ => rel_length _ rr
theorem cba : Statement .cba := fun _ => by decide
theorem clc : Statement .clc := fun _ => by decide
theorem cli : Statement .cli := fun _ => by decide
theorem clr (m : Mem) : Statement (.clr m) := fun _ =>
  (encodeMem_length _ _ _ _ m (by decide) (by decide) (by decide) (by decide)).imp_right fun h => Nat.le_succ_of_le h
theorem clra : Statement .clra := fun _ => by decide
theorem clrb : Statement .clrb := fun _ => by decide
theorem clv : Statement .clv := fun _ => by decide
theorem cmpa (o : Src8) : Statement (.cmpa o) := fun _ =>
  encodeSrc8_length _ _ _ _ _ o (by decide) (by decide) (by decide) (by decide) (by decide)
theorem cmpb (o : Src8) : Statement (.cmpb o) := fun _ =>
  encodeSrc8_length _ _ _ _ _ o (by decide) (by decide) (by decide) (by decide) (by decide)
theorem com (m : Mem) : Statement (.com m) := fun _ =>
  (encodeMem_length _ _ _ _ m (by decide) (by decide) (by decide) (by decide)).imp_right fun h => Nat.le_succ_of_le h
theorem coma : Statement .coma := fun _ => by decide
theorem comb : Statement .comb := fun _ => by decide
theorem cpd (o : Src16) : Statement (.cpd o) := fun _ =>
  encodeSrc16_length _ _ _ _ _ o (by decide) (by decide) (by decide) (by decide) (by decide)
theorem cpx (o : Src16) : Statement (.cpx o) := fun _ =>
  encodeSrc16_length _ _ _ _ _ o (by decide) (by decide) (by decide) (by decide) (by decide)
theorem cpy (o : Src16) : Statement (.cpy o) := fun _ =>
  encodeSrc16_length _ _ _ _ _ o (by decide) (by decide) (by decide) (by decide) (by decide)
theorem daa : Statement .daa := fun _ => by decide
theorem dec (m : Mem) : Statement (.dec m) := fun _ =>
  (encodeMem_length _ _ _ _ m (by decide) (by decide) (by decide) (by decide)).imp_right fun h => Nat.le_succ_of_le h
theorem deca : Statement .deca := fun _ => by decide
theorem decb : Statement .decb := fun _ => by decide
theorem des : Statement .des := fun _ => by decide
theorem dex : Statement .dex := fun _ => by decide
theorem dey : Statement .dey := fun _ => by decide
theorem eora (o : Src8) : Statement (.eora o) := fun _ =>
  encodeSrc8_length _ _ _ _ _ o (by decide) (by decide) (by decide) (by decide) (by decide)
theorem eorb (o : Src8) : Statement (.eorb o) := fun _ =>
  encodeSrc8_length _ _ _ _ _ o (by decide) (by decide) (by decide) (by decide) (by decide)
theorem fdiv : Statement .fdiv := fun _ => by decide
theorem idiv : Statement .idiv := fun _ => by decide
theorem inc (m : Mem) : Statement (.inc m) := fun _ =>
  (encodeMem_length _ _ _ _ m (by decide) (by decide) (by decide) (by decide)).imp_right fun h => Nat.le_succ_of_le h
theorem inca : Statement .inca := fun _ => by decide
theorem incb : Statement .incb := fun _ => by decide
theorem ins : Statement .ins := fun _ => by decide
theorem inx : Statement .inx := fun _ => by decide
theorem iny : Statement .iny := fun _ => by decide
theorem jmp (m : Mem) : Statement (.jmp m) := fun _ =>
  (encodeMem_length _ _ _ _ m (by decide) (by decide) (by decide) (by decide)).imp_right fun h => Nat.le_succ_of_le h
theorem jsr (m : Mem) : Statement (.jsr m) := fun _ =>
  (encodeMem_length _ _ _ _ m (by decide) (by decide) (by decide) (by decide)).imp_right fun h => Nat.le_succ_of_le h
theorem ldaa (o : Src8) : Statement (.ldaa o) := fun _ =>
  encodeSrc8_length _ _ _ _ _ o (by decide) (by decide) (by decide) (by decide) (by decide)
theorem ldab (o : Src8) : Statement (.ldab o) := fun _ =>
  encodeSrc8_length _ _ _ _ _ o (by decide) (by decide) (by decide) (by decide) (by decide)
theorem ldd (o : Src16) : Statement (.ldd o) := fun _ =>
  encodeSrc16_length _ _ _ _ _ o (by decide) (by decide) (by decide) (by decide) (by decide)
theorem lds (o : Src16) : Statement (.lds o) := fun _ =>
  encodeSrc16_length _ _ _ _ _ o (by decide) (by decide) (by decide) (by decide) (by decide)
theorem ldx (o : Src16) : Statement (.ldx o) := fun _ =>
  encodeSrc16_length _ _ _ _ _ o (by decide) (by decide) (by decide) (by decide) (by decide)
theorem ldy (o : Src16) : Statement (.ldy o) := fun _ =>
  encodeSrc16_length _ _ _ _ _ o (by decide) (by decide) (by decide) (by decide) (by decide)
theorem lsl (m : Mem) : Statement (.lsl m) := fun _ =>
  (encodeMem_length _ _ _ _ m (by decide) (by decide) (by decide) (by decide)).imp_right fun h => Nat.le_succ_of_le h
theorem lsla : Statement .lsla := fun _ => by decide
theorem lslb : Statement .lslb := fun _ => by decide
theorem lsld : Statement .lsld := fun _ => by decide
theorem lsr (m : Mem) : Statement (.lsr m) := fun _ =>
  (encodeMem_length _ _ _ _ m (by decide) (by decide) (by decide) (by decide)).imp_right fun h => Nat.le_succ_of_le h
theorem lsra : Statement .lsra := fun _ => by decide
theorem lsrb : Statement .lsrb := fun _ => by decide
theorem lsrd : Statement .lsrd := fun _ => by decide
theorem mul : Statement .mul := fun _ => by decide
theorem neg (m : Mem) : Statement (.neg m) := fun _ =>
  (encodeMem_length _ _ _ _ m (by decide) (by decide) (by decide) (by decide)).imp_right fun h => Nat.le_succ_of_le h
theorem nega : Statement .nega := fun _ => by decide
theorem negb : Statement .negb := fun _ => by decide
theorem nop : Statement .nop := fun _ => by decide
theorem oraa (o : Src8) : Statement (.oraa o) := fun _ =>
  encodeSrc8_length _ _ _ _ _ o (by decide) (by decide) (by decide) (by decide) (by decide)
theorem orab (o : Src8) : Statement (.orab o) := fun _ =>
  encodeSrc8_length _ _ _ _ _ o (by decide) (by decide) (by decide) (by decide) (by decide)
theorem psha : Statement .psha := fun _ => by decide
theorem pshb : Statement .pshb := fun _ => by decide
theorem pshx : Statement .pshx := fun _ => by decide
theorem pshy : Statement .pshy := fun _ => by decide
theorem pula : Statement .pula := fun _ => by decide
theorem pulb : Statement .pulb := fun _ => by decide
theorem pulx : Statement .pulx := fun _ => by decide
theorem puly : Statement .puly := fun _ => by decide
theorem rol (m : Mem) : Statement (.rol m) := fun _ =>
  (encodeMem_length _ _ _ _ m (by decide) (by decide) (by decide) (by decide)).imp_right fun h => Nat.le_succ_of_le h
theorem rola : Statement .rola := fun _ => by decide
theorem rolb : Statement .rolb := fun _ => by decide
theorem ror (m : Mem) : Statement (.ror m) := fun _ =>
  (encodeMem_length _ _ _ _ m (by decide) (by decide) (by decide) (by decide)).imp_right fun h => Nat.le_succ_of_le h
theorem rora : Statement .rora := fun _ => by decide
theorem rorb : Statement .rorb := fun _ => by decide
theorem rti : Statement .rti := fun _ => by decide
theorem rts : Statement .rts := fun _ => by decide
theorem sba : Statement .sba := fun _ => by decide
theorem sbca (o : Src8) : Statement (.sbca o) := fun _ =>
  encodeSrc8_length _ _ _ _ _ o (by decide) (by decide) (by decide) (by decide) (by decide)
theorem sbcb (o : Src8) : Statement (.sbcb o) := fun _ =>
  encodeSrc8_length _ _ _ _ _ o (by decide) (by decide) (by decide) (by decide) (by decide)
theorem sec : Statement .sec := fun _ => by decide
theorem sei : Statement .sei := fun _ => by decide
theorem sev : Statement .sev := fun _ => by decide
theorem staa (m : Mem) : Statement (.staa m) := fun _ =>
  (encodeMem_length _ _ _ _ m (by decide) (by decide) (by decide) (by decide)).imp_right fun h => Nat.le_succ_of_le h
theorem stab (m : Mem) : Statement (.stab m) := fun _ =>
  (encodeMem_length _ _ _ _ m (by decide) (by decide) (by decide) (by decide)).imp_right fun h => Nat.le_succ_of_le h
theorem std (m : Mem) : Statement (.std m) := fun _ =>
  (encodeMem_length _ _ _ _ m (by decide) (by decide) (by decide) (by decide)).imp_right fun h => Nat.le_succ_of_le h
theorem stop : Statement .stop := fun _ => by decide
theorem sts (m : Mem) : Statement (.sts m) := fun _ =>
  (encodeMem_length _ _ _ _ m (by decide) (by decide) (by decide) (by decide)).imp_right fun h => Nat.le_succ_of_le h
theorem stx (m : Mem) : Statement (.stx m) := fun _ =>
  (encodeMem_length _ _ _ _ m (by decide) (by decide) (by decide) (by decide)).imp_right fun h => Nat.le_succ_of_le h
theorem sty (m : Mem) : Statement (.sty m) := fun _ =>
  (encodeMem_length _ _ _ _ m (by decide) (by decide) (by decide) (by decide)).imp_right fun h => Nat.le_succ_of_le h
theorem suba (o : Src8) : Statement (.suba o) := fun _ =>
  encodeSrc8_length _ _ _ _ _ o (by decide) (by decide) (by decide) (by decide) (by decide)
theorem subb (o : Src8) : Statement (.subb o) := fun _ =>
  encodeSrc8_length _ _ _ _ _ o (by decide) (by decide) (by decide) (by decide) (by decide)
theorem subd (o : Src16) : Statement (.subd o) := fun _ =>
  encodeSrc16_length _ _ _ _ _ o (by decide) (by decide) (by decide) (by decide) (by decide)
theorem swi : Statement .swi := fun _ => by decide
theorem tab : Statement .tab := fun _ => by decide
theorem tap : Statement .tap := fun _ => by decide
theorem tba : Statement .tba := fun _ => by decide
theorem test : Statement .test := fun _ => by decide
theorem tpa : Statement .tpa := fun _ => by decide
theorem tst (m : Mem) : Statement (.tst m) := fun _ =>
  (encodeMem_length _ _ _ _ m (by decide) (by decide) (by decide) (by decide)).imp_right fun h => Nat.le_succ_of_le h
theorem tsta : Statement .tsta := fun _ => by decide
theorem tstb : Statement .tstb := fun _ => by decide
theorem tsx : Statement .tsx := fun _ => by decide
theorem tsy : Statement .tsy := fun _ => by decide
theorem txs : Statement .txs := fun _ => by decide
theorem tys : Statement .tys := fun _ => by decide
theorem wai : Statement .wai := fun _ => by decide
theorem xgdx : Statement .xgdx := fun _ => by decide
theorem xgdy : Statement .xgdy := fun _ => by decide

end EncodingLength

end Sys2Proof.Laws
end

