-- ==== Sys2Proof/Laws/Step.lean ====
section
/-! SUPPORT. What a step can do, said once: how a request is chosen, and the ways a step can go. -/

namespace Sys2Proof.Machine

/-! ### Choosing a request -/

theorem firstOf_none {cls : RequestClass} {reqs : List Request} :
    firstOf cls reqs = none ↔ ∀ r ∈ reqs, r.cls ≠ cls := by
  induction reqs with
  | nil => simp [firstOf]
  | cons r rs ih =>
    simp only [firstOf, List.mem_cons, forall_eq_or_imp]
    split
    · next h => simp [h]
    · next h => simp [h, ih]

theorem firstOf_some {cls : RequestClass} {reqs : List Request} {r : Request}
    (h : firstOf cls reqs = some r) : r ∈ reqs ∧ r.cls = cls := by
  induction reqs with
  | nil => simp [firstOf] at h
  | cons q rs ih =>
    simp only [firstOf] at h
    split at h
    · next hq =>
      cases h
      exact ⟨List.mem_cons_self, hq⟩
    · exact ⟨List.mem_cons_of_mem _ (ih h).1, (ih h).2⟩

theorem highestMaskable_none {reqs : List Request} :
    highestMaskable reqs = none ↔ ∀ r ∈ reqs, r.cls ≠ .maskable := by
  induction reqs with
  | nil => simp [highestMaskable]
  | cons q rs ih =>
    simp only [highestMaskable, List.mem_cons, forall_eq_or_imp]
    split
    · next h =>
      by_cases hq : q.cls = .maskable
      · simp [hq]
      · simpa [hq] using ih.mp h
    · next p h =>
      have : ¬ ∀ r ∈ rs, r.cls ≠ .maskable := fun h' => by simp [ih.mpr h'] at h
      by_cases hq : q.cls = .maskable ∧ p.vector.toNat ≤ q.vector.toNat
      · simp [hq]
      · simp only [hq, if_false, reduceCtorEq, false_iff, not_and]
        exact fun _ => this

/-- The maskable request that is chosen is pending, and no pending one has a higher vector (R515). -/
theorem highestMaskable_some {reqs : List Request} {r : Request} (h : highestMaskable reqs = some r) :
    r ∈ reqs ∧ r.cls = .maskable ∧
      ∀ q ∈ reqs, q.cls = .maskable → q.vector.toNat ≤ r.vector.toNat := by
  induction reqs generalizing r with
  | nil => simp [highestMaskable] at h
  | cons p rs ih =>
    simp only [highestMaskable] at h
    split at h
    · next hn =>
      split at h
      · next hp =>
        cases h
        refine ⟨List.mem_cons_self, hp, fun q hq hc => ?_⟩
        rcases List.mem_cons.mp hq with rfl | hq
        · exact Nat.le_refl _
        · exact absurd hc (highestMaskable_none.mp hn q hq)
      · cases h
    · next p' hp' =>
      have ih' := ih hp'
      split at h
      · next hp =>
        cases h
        refine ⟨List.mem_cons_self, hp.1, fun q hq hc => ?_⟩
        rcases List.mem_cons.mp hq with rfl | hq
        · exact Nat.le_refl _
        · exact Nat.le_trans (ih'.2.2 q hq hc) hp.2
      · next hp =>
        cases h
        refine ⟨List.mem_cons_of_mem _ ih'.1, ih'.2.1, fun q hq hc => ?_⟩
        rcases List.mem_cons.mp hq with rfl | hq
        · have := not_and.mp hp hc
          omega
        · exact ih'.2.2 q hq hc

/-- What the masks and the priority let through (R512 to R515): an xirq with X clear, or a maskable request
with I and `i_delay` clear, of the highest vector. -/
theorem State.allowed_some {s : State} {reqs : List Request} {r : Request}
    (h : s.allowed reqs = some r) :
    (r ∈ reqs ∧ r.cls = .xirq ∧ s.ccr.x = false) ∨
    (r ∈ reqs ∧ r.cls = .maskable ∧ s.ccr.i = false ∧ s.iDelay = false ∧
      (s.ccr.x = true ∨ ∀ q ∈ reqs, q.cls ≠ .xirq) ∧
      ∀ q ∈ reqs, q.cls = .maskable → q.vector.toNat ≤ r.vector.toNat) := by
  unfold State.allowed at h
  split at h
  · next q hq =>
    cases h
    split at hq
    · cases hq
    · next hx => exact .inl ⟨(firstOf_some hq).1, (firstOf_some hq).2, by simpa using hx⟩
  · next hn =>
    split at h
    · cases h
    · next hi =>
      simp only [Bool.or_eq_true, not_or, Bool.not_eq_true] at hi
      obtain ⟨hm, hc, hv⟩ := highestMaskable_some h
      refine .inr ⟨hm, hc, hi.1, hi.2, ?_, hv⟩
      split at hn
      · next hx => exact .inl hx
      · exact .inr (firstOf_none.mp hn)

theorem State.allowed_none {s : State} {reqs : List Request} :
    s.allowed reqs = none ↔
      (s.ccr.x = true ∨ ∀ q ∈ reqs, q.cls ≠ .xirq) ∧
      (s.ccr.i = true ∨ s.iDelay = true ∨ ∀ q ∈ reqs, q.cls ≠ .maskable) := by
  unfold State.allowed
  constructor
  · intro h
    split at h
    · cases h
    · next hn =>
      constructor
      · split at hn
        · next hx => exact .inl hx
        · exact .inr (firstOf_none.mp hn)
      · split at h
        · next hi => exact (Bool.or_eq_true_iff.mp hi).imp_right .inl
        · exact .inr (.inr (highestMaskable_none.mp h))
  · rintro ⟨hx, hi⟩
    have h1 : (if s.ccr.x = true then none else firstOf .xirq reqs) = none := by
      split
      · rfl
      · next h => exact firstOf_none.mpr (hx.resolve_left h)
    rw [h1]
    show (if (s.ccr.i || s.iDelay) = true then none else highestMaskable reqs) = none
    split
    · rfl
    · next h =>
      simp only [Bool.or_eq_true, not_or, Bool.not_eq_true] at h
      rcases hi with hi | hi | hi
      · simp [hi] at h
      · simp [hi] at h
      · exact highestMaskable_none.mpr hi

/-! ### The ways a step can go -/

/-- The oracle has been asked: of the fields a boundary looks at, none is changed. -/
theorem State.allowed_asked (s : State) (reqs : List Request) :
    s.asked.allowed reqs = s.allowed reqs := rfl

/-- A step executes an instruction exactly when the state is quiet (R510). -/
theorem State.boundary_none (s : State) : s.asked.boundary s.requests = none ↔ s.Quiet := by
  unfold State.boundary State.Quiet State.Pending
  split
  · next r hr =>
    simp only [reduceCtorEq, false_iff]
    exact fun h => h.1 ⟨r, firstOf_some hr⟩
  · next hn =>
    have h1 : ¬ ∃ r ∈ s.requests, r.cls = .reset := by
      simpa using firstOf_none.mp hn
    cases hrun : s.run <;> simp only [State.asked_run, hrun, reduceCtorEq, false_and, and_false, not_false_eq_true, h1,
      true_and]
    rw [State.allowed_asked]
    have := State.allowed_none (s := s) (reqs := s.requests)
    split
    · next r hr =>
      simp only [reduceCtorEq, false_iff]
      intro h
      rw [this.mpr (by simpa using h)] at hr
      cases hr
    · next hr => simpa using this.mp hr

/-- In a quiet state a step is the instruction (R120). -/
theorem step_quiet {s : State} (h : s.Quiet) : step s = s.asked.instruction := by
  unfold step
  rw [(State.boundary_none s).mpr h]

/-- Everything a step can do (R510): reset; stay locked; the stopped and the waiting boundary; an entry;
an instruction. -/
theorem step_cases {s t : State} (h : step s = .next t) :
    (∃ r ∈ s.requests, r.cls = .reset ∧ t = s.asked.takeReset r.vector) ∨
    (¬ s.Pending .reset ∧
      ((s.run = .testLock ∧ t = s.asked) ∨
       (s.run = .stopped ∧ t = s.asked.stoppedBoundary s.requests) ∨
       (s.run = .waiting ∧ t = s.asked.waitingBoundary s.requests) ∨
       (s.run = .running ∧ ∃ r, s.allowed s.requests = some r ∧
         t = s.asked.enter r.vector s.pc (r.cls == .xirq) true) ∨
       (s.Quiet ∧ s.asked.instruction = .next t))) := by
  by_cases hq : s.Quiet
  · refine .inr ⟨hq.1, .inr (.inr (.inr (.inr ⟨hq, ?_⟩)))⟩
    rwa [step_quiet hq] at h
  · unfold step at h
    split at h
    · next t' hb =>
      obtain rfl : t' = t := by injection h
      unfold State.boundary at hb
      split at hb
      · next r hr =>
        exact .inl ⟨r, (firstOf_some hr).1, (firstOf_some hr).2, (Option.some.inj hb).symm⟩
      · next hn =>
        refine .inr ⟨by simpa [State.Pending] using firstOf_none.mp hn, ?_⟩
        rw [State.asked_run, State.asked_pc, State.allowed_asked] at hb
        split at hb
        · next hr => exact .inl ⟨hr, (Option.some.inj hb).symm⟩
        · next hr => exact .inr (.inl ⟨hr, (Option.some.inj hb).symm⟩)
        · next hr => exact .inr (.inr (.inl ⟨hr, (Option.some.inj hb).symm⟩))
        · next hr =>
          split at hb
          · next r ha => exact .inr (.inr (.inr (.inl ⟨hr, r, ha, (Option.some.inj hb).symm⟩)))
          · cases hb
    · next hb => exact absurd ((State.boundary_none s).mp hb) hq

/-- What one instruction can do (R120): the meaning of the decoded instruction, or the trap (R507). -/
theorem State.instruction_cases (s : State) :
    (∃ d, decode s.fetchBytes = .ok d ∧
      s.instruction = exec d.instr ((s.fetched d.length).advance d.length)) ∨
    (∃ e, decode s.fetchBytes = .error e ∧
      s.instruction = .next ((s.fetched e.consumed).illegalOpcode s.pc e.consumed)) := by
  unfold State.instruction
  cases h : decode s.fetchBytes with
  | ok d => exact .inl ⟨d, rfl, rfl⟩
  | error e => exact .inr ⟨e, rfl, rfl⟩

/-- Leaving STOP (R519). -/
theorem State.stoppedBoundary_cases (s : State) (reqs : List Request) :
    ((∃ r ∈ reqs, r.cls = .xirq) ∧ s.ccr.x = true ∧ s.stoppedBoundary reqs = s.setRun .running) ∨
    ((∃ r ∈ reqs, r.cls = .xirq) ∧ s.ccr.x = false ∧
      s.stoppedBoundary reqs = s.enter s.config.vecXirq s.pc true true) ∨
    ((∀ r ∈ reqs, r.cls ≠ .xirq) ∧ s.irqPin reqs = true ∧ s.ccr.i = false ∧
      s.stoppedBoundary reqs = s.enter s.config.vecIrq s.pc false true) ∨
    ((∀ r ∈ reqs, r.cls ≠ .xirq) ∧ (s.irqPin reqs = false ∨ s.ccr.i = true) ∧
      s.stoppedBoundary reqs = s) := by
  unfold State.stoppedBoundary
  split
  · next r hr =>
    cases hx : s.ccr.x
    · exact .inr (.inl ⟨⟨r, firstOf_some hr⟩, rfl, by simp⟩)
    · exact .inl ⟨⟨r, firstOf_some hr⟩, rfl, by simp⟩
  · next hn =>
    have h1 := firstOf_none.mp hn
    cases hp : s.irqPin reqs <;> cases hi : s.ccr.i
    · exact .inr (.inr (.inr ⟨h1, .inl rfl, by simp⟩))
    · exact .inr (.inr (.inr ⟨h1, .inl rfl, by simp⟩))
    · exact .inr (.inr (.inl ⟨h1, rfl, rfl, by simp⟩))
    · exact .inr (.inr (.inr ⟨h1, .inr rfl, by simp⟩))

/-- Leaving WAIT (R518). -/
theorem State.waitingBoundary_cases (s : State) (reqs : List Request) :
    (∃ r, s.allowed reqs = some r ∧
      s.waitingBoundary reqs = s.enter r.vector s.pc (r.cls == .xirq) false) ∨
    (s.allowed reqs = none ∧ s.waitingBoundary reqs = s) := by
  unfold State.waitingBoundary
  split
  · next r hr => exact .inl ⟨r, hr, rfl⟩
  · next hn => exact .inr ⟨hn, rfl⟩

end Sys2Proof.Machine
end

