-- ==== Sys2Proof/Tests/Slice0.lean ====
section
/-! SUPPORT. Tests on fixed values. The words are written out from the encoding tables of files 41 to 48, the
values of the example lines are the spec's own (one Example line a rule, and the lines V<n> of
95_test_vectors.md), and the witnesses show that the hypotheses of the statements can be met. -/

open Sys2Proof Sys2Proof.Machine

namespace Sys2Proof.Tests

/-! ### WellFormed: an ill-formed term for each check, which the check refuses -/

theorem test_wf_refuses_readModifyWrite_direct :
    ([.asl (.dir 0x40), .asr (.dir 0x40), .clr (.dir 0x40), .com (.dir 0x40), .dec (.dir 0x40),
      .inc (.dir 0x40), .lsl (.dir 0x40), .lsr (.dir 0x40), .neg (.dir 0x40), .rol (.dir 0x40),
      .ror (.dir 0x40), .tst (.dir 0x40)] : List Instr).all (fun i => !i.wf) = true := by decide

theorem test_wf_refuses_jmp_direct : (Instr.jmp (.dir 0x40)).wf = false := by decide

theorem test_wf_refuses_bitManipulation_extended :
    ([.bset (.ext 0x2000) 0x01, .bclr (.ext 0x2000) 0x01, .brset (.ext 0x2000) 0x01 0x00,
      .brclr (.ext 0x2000) 0x01 0x00] : List Instr).all (fun i => !i.wf) = true := by decide

theorem test_wf_accepts_table_forms :
    ([.neg (.ext 0x2000), .jmp (.indY 0xFF), .jsr (.dir 0x40), .bset (.dir 0x40) 0x00,
      .brclr (.indX 0x00) 0xFF 0x80, .ldaa (.imm 0x00), .sts (.indY 0x01), .test] : List Instr).all
      (fun i => i.wf) = true := by decide

/-! ### Decoding: for every constructor a word of its encoding table, with other code after it -/

/-- The decoder reads the instruction from its bytes, under its first name, and no byte after them; the
encoder writes the same bytes. -/
def reads (p : List Byte × Instr) : Bool :=
  match decode (p.1 ++ [0xAA]) with
  | .ok d => d.instr == p.2.canonical && d.length == p.1.length && encode p.2 == p.1
  | .error _ => false

theorem test_words_of_41_ABA_to_ASLD :
    ([([0x1B], .aba), ([0x3A], .abx), ([0x18, 0x3A], .aby), ([0xA9, 0xAA], .adca (.mem (.indX 0xAA))),
      ([0x18, 0xE9, 0x94], .adcb (.mem (.indY 0x94))), ([0x8B, 0x75], .adda (.imm 0x75)),
      ([0xDB, 0x45], .addb (.mem (.dir 0x45))), ([0xF3, 0xC3, 0x36], .addd (.mem (.ext 0xC336))),
      ([0xA4, 0x99], .anda (.mem (.indX 0x99))), ([0x18, 0xE4, 0x83], .andb (.mem (.indY 0x83))),
      ([0x68, 0x91], .asl (.indX 0x91)), ([0x48], .asla), ([0x58], .aslb), ([0x05], .asld)] : List (List Byte × Instr)).all reads = true := by decide +kernel

theorem test_words_of_42_ASR_to_BVC :
    ([([0x18, 0x67, 0x82], .asr (.indY 0x82)), ([0x47], .asra), ([0x57], .asrb),
      ([0x24, 0x07], .bcc 0x07), ([0x15, 0x5E, 0x9F], .bclr (.dir 0x5E) 0x9F), ([0x25, 0x23], .bcs 0x23),
      ([0x27, 0x2A], .beq 0x2A), ([0x2C, 0xF1], .bge 0xF1), ([0x2E, 0xF8], .bgt 0xF8),
      ([0x22, 0xFF], .bhi 0xFF), ([0x24, 0x06], .bhs 0x06), ([0x85, 0x77], .bita (.imm 0x77)),
      ([0xD5, 0x47], .bitb (.mem (.dir 0x47))), ([0x2F, 0x13], .ble 0x13), ([0x25, 0x1A], .blo 0x1A),
      ([0x23, 0x21], .bls 0x21), ([0x2D, 0x28], .blt 0x28), ([0x2B, 0x2F], .bmi 0x2F),
      ([0x26, 0xF6], .bne 0xF6), ([0x2A, 0xFD], .bpl 0xFD), ([0x20, 0x04], .bra 0x04),
      ([0x18, 0x1F, 0xA9, 0xAA, 0x19], .brclr (.indY 0xA9) 0xAA 0x19), ([0x21, 0x20], .brn 0x20),
      ([0x1E, 0xBE, 0xBF, 0x2E], .brset (.indX 0xBE) 0xBF 0x2E),
      ([0x18, 0x1C, 0x9A, 0x9B], .bset (.indY 0x9A) 0x9B), ([0x8D, 0x11], .bsr 0x11),
      ([0x28, 0x18], .bvc 0x18)] : List (List Byte × Instr)).all reads = true := by decide +kernel

theorem test_words_of_43_BVS_to_DECB :
    ([([0x29, 0x1F], .bvs 0x1F), ([0x11], .cba), ([0x0C], .clc), ([0x0E], .cli),
      ([0x7F, 0xC3, 0x12], .clr (.ext 0xC312)), ([0x4F], .clra), ([0x5F], .clrb), ([0x0A], .clv),
      ([0x18, 0xA1, 0x91], .cmpa (.mem (.indY 0x91))), ([0xC1, 0x72], .cmpb (.imm 0x72)),
      ([0x73, 0xC3, 0x42], .com (.ext 0xC342)), ([0x43], .coma), ([0x53], .comb),
      ([0xCD, 0xA3, 0xBA], .cpd (.mem (.indY 0xBA))), ([0x8C, 0x12, 0x35], .cpx (.imm 0x1235)),
      ([0x18, 0x9C, 0x6B], .cpy (.mem (.dir 0x6B))), ([0x19], .daa), ([0x6A, 0x95], .dec (.indX 0x95)),
      ([0x4A], .deca), ([0x5A], .decb)] : List (List Byte × Instr)).all reads = true := by decide +kernel

theorem test_words_of_44_DES_to_LDD :
    ([([0x34], .des), ([0x09], .dex), ([0x18, 0x09], .dey),
      ([0x18, 0xA8, 0xA2], .eora (.mem (.indY 0xA2))), ([0xC8, 0x83], .eorb (.imm 0x83)), ([0x03], .fdiv),
      ([0x02], .idiv), ([0x18, 0x6C, 0xA8], .inc (.indY 0xA8)), ([0x4C], .inca), ([0x5C], .incb),
      ([0x31], .ins), ([0x08], .inx), ([0x18, 0x08], .iny), ([0x18, 0x6E, 0xA0], .jmp (.indY 0xA0)),
      ([0x18, 0xAD, 0xBC], .jsr (.indY 0xBC)), ([0x96, 0x4A], .ldaa (.mem (.dir 0x4A))),
      ([0xF6, 0xC3, 0x3B], .ldab (.mem (.ext 0xC33B))), ([0xEC, 0x9E], .ldd (.mem (.indX 0x9E)))] : List (List Byte × Instr)).all reads = true := by decide +kernel

theorem test_words_of_45_LDS_to_ORAB :
    ([([0x18, 0xAE, 0x88], .lds (.mem (.indY 0x88))), ([0xCE, 0x12, 0x43], .ldx (.imm 0x1243)),
      ([0x18, 0xDE, 0x79], .ldy (.mem (.dir 0x79))), ([0x68, 0x9C], .lsl (.indX 0x9C)), ([0x48], .lsla),
      ([0x58], .lslb), ([0x05], .lsld), ([0x18, 0x64, 0x8D], .lsr (.indY 0x8D)), ([0x44], .lsra),
      ([0x54], .lsrb), ([0x04], .lsrd), ([0x3D], .mul), ([0x60, 0xB7], .neg (.indX 0xB7)),
      ([0x40], .nega), ([0x50], .negb), ([0x01], .nop), ([0x8A, 0x74], .oraa (.imm 0x74)),
      ([0xDA, 0x44], .orab (.mem (.dir 0x44)))] : List (List Byte × Instr)).all reads = true := by decide +kernel

theorem test_words_of_46_PSHA_to_SEV :
    ([([0x36], .psha), ([0x37], .pshb), ([0x3C], .pshx), ([0x18, 0x3C], .pshy), ([0x32], .pula),
      ([0x33], .pulb), ([0x38], .pulx), ([0x18, 0x38], .puly), ([0x79, 0xC3, 0x1F], .rol (.ext 0xC31F)),
      ([0x49], .rola), ([0x59], .rolb), ([0x76, 0xC3, 0x42], .ror (.ext 0xC342)), ([0x46], .rora),
      ([0x56], .rorb), ([0x3B], .rti), ([0x39], .rts), ([0x10], .sba),
      ([0x18, 0xA2, 0x8F], .sbca (.mem (.indY 0x8F))), ([0xC2, 0x70], .sbcb (.imm 0x70)), ([0x0D], .sec),
      ([0x0F], .sei), ([0x0B], .sev)] : List (List Byte × Instr)).all reads = true := by decide +kernel

theorem test_words_of_47_STAA_to_TSX :
    ([([0x18, 0xA7, 0xA3], .staa (.indY 0xA3)), ([0xD7, 0x6A], .stab (.dir 0x6A)),
      ([0xFD, 0xC3, 0x14], .std (.ext 0xC314)), ([0xCF], .stop), ([0x18, 0xAF, 0xBE], .sts (.indY 0xBE)),
      ([0xDF, 0x45], .stx (.dir 0x45)), ([0x18, 0xFF, 0xC3, 0x2F], .sty (.ext 0xC32F)),
      ([0x90, 0x44], .suba (.mem (.dir 0x44))), ([0xF0, 0xC3, 0x35], .subb (.mem (.ext 0xC335))),
      ([0xA3, 0x98], .subd (.mem (.indX 0x98))), ([0x3F], .swi), ([0x16], .tab), ([0x06], .tap),
      ([0x17], .tba), ([0x00], .test), ([0x07], .tpa), ([0x7D, 0xC3, 0x17], .tst (.ext 0xC317)),
      ([0x4D], .tsta), ([0x5D], .tstb), ([0x30], .tsx)] : List (List Byte × Instr)).all reads = true := by decide +kernel

theorem test_words_of_48_TSY_to_XGDY :
    ([([0x18, 0x30], .tsy), ([0x35], .txs), ([0x18, 0x35], .tys), ([0x3E], .wai), ([0x8F], .xgdx),
      ([0x18, 0x8F], .xgdy)] : List (List Byte × Instr)).all reads = true := by decide +kernel

/-- One word each of the prefixed and the bit forms that the lists above leave out. -/
theorem test_words_of_prefixed_forms :
    ([([0x1A, 0xEF, 0x09], .sty (.indX 0x09)), ([0xCD, 0xEF, 0x09], .stx (.indY 0x09)),
      ([0x18, 0xEF, 0x09], .sty (.indY 0x09)), ([0x1A, 0x83, 0x12, 0x34], .cpd (.imm 0x1234)),
      ([0xCD, 0xA3, 0x09], .cpd (.mem (.indY 0x09))), ([0x1A, 0xAC, 0x09], .cpy (.mem (.indX 0x09))),
      ([0xCD, 0xAC, 0x09], .cpx (.mem (.indY 0x09))), ([0x1A, 0xEE, 0x09], .ldy (.mem (.indX 0x09))),
      ([0xCD, 0xEE, 0x09], .ldx (.mem (.indY 0x09))), ([0x18, 0x1E, 0x09, 0x81, 0xFE], .brset (.indY 0x09) 0x81 0xFE)] :
      List (List Byte × Instr)).all reads = true := by decide +kernel

theorem test_decode_rejects_unassigned_by_name :
    decode [0x41] = .error (.unassigned 0x41) ∧ decode [0x18, 0x86, 0x55] = .error (.unassignedAfter 0x18 0x86) ∧
    decode [0x1A, 0x00] = .error (.unassignedAfter 0x1A 0x00) ∧
    decode [0xCD, 0x18] = .error (.unassignedAfter 0xCD 0x18) := ⟨rfl, rfl, rfl, rfl⟩

/-- The numbers that spec/opcode_table.json prints for four rows. -/
theorem test_decodeTableWord :
    decodeTableWord 8 0x1B = some .aba ∧ decodeTableWord 16 0x183A = some .aby ∧
    decodeTableWord 16 0xCDEE = some (.ldx (.mem (.indY 0x00))) ∧
    decodeTableWord 16 0x5A86 = some (.ldaa (.imm 0x5A)) := ⟨rfl, rfl, rfl, rfl⟩

/-- The step after reset with a word placed runs it: ABA and STY IND,X. -/
theorem test_withFetchWord :
    step (State.reset.withFetchWord 8 0x1B) = exec .aba ((State.reset.withFetchWord 8 0x1B).asked.advance 1) ∧
    step (State.reset.withFetchWord 16 0x1AEF) =
      exec (.sty (.indX 0x00)) ((State.reset.withFetchWord 16 0x1AEF).asked.advance 3) := ⟨rfl, rfl⟩

/-! ### A machine in the terms of the example lines -/

/-- One value of an example line: a register, the CCR, bytes of memory, the run state. -/
inductive Item where
  | a (v : Byte)
  | b (v : Byte)
  | ix (v : Word)
  | iy (v : Word)
  | sp (v : Word)
  | pc (v : Word)
  | ccr (v : Byte)
  /-- the CCR but for V, which DAA leaves open (U4) -/
  | ccrButV (v : Byte)
  | m (addr : Word) (bytes : List Byte)
  | run (v : RunState)

/-- The CCR whose byte is `v` (R27). -/
def ccrOf (v : Byte) : CCR := ({ CCR.reset with x := true } : CCR).write v

/-- The state with the value of the line. -/
def Item.put : Item → State → State
  | .a v, s => s.setA v
  | .b v, s => s.setB v
  | .ix v, s => s.setIX v
  | .iy v, s => s.setIY v
  | .sp v, s => s.setSP v
  | .pc v, s => s.setPC v
  | .ccr v, s => s.setCCR (ccrOf v)
  | .ccrButV v, s => s.setCCR (ccrOf v)
  | .m x vs, s => s.loadBytes x vs
  | .run v, s => s.setRun v

/-- The bytes stand at the address. -/
def bytesAt (s : State) (a : Word) : List Byte → Bool
  | [] => true
  | v :: vs => s.readByte a == v && bytesAt s (a + 1) vs

/-- The state shows the value of the line. -/
def Item.shown : Item → State → Bool
  | .a v, s => s.a == v
  | .b v, s => s.b == v
  | .ix v, s => s.ix == v
  | .iy v, s => s.iy == v
  | .sp v, s => s.sp == v
  | .pc v, s => s.pc == v
  | .ccr v, s => s.ccr == ccrOf v
  | .ccrButV v, s =>
    let f := ccrOf v
    s.ccr.s == f.s && s.ccr.x == f.x && s.ccr.h == f.h && s.ccr.i == f.i && s.ccr.n == f.n &&
      s.ccr.z == f.z && s.ccr.c == f.c
  | .m x vs, s => bytesAt s x vs
  | .run v, s => s.run == v

/-- The state after a line's start values are put on a state. -/
def putAll (items : List Item) (s : State) : State := items.foldl (fun t i => i.put t) s

/-- The start of a line: PC `$0100`, CCR `$D0`, the line's values, and its code at PC. -/
def startOf (items : List Item) (code : List Byte) : State :=
  let s := putAll (.pc 0x0100 :: .ccr 0xD0 :: items) State.reset
  s.loadBytes s.pc code

/-- The state answers and the line's end values are shown. -/
def ends (items : List Item) : Result → Bool
  | .next t => items.all fun i => i.shown t
  | .fault _ => false
  | .refused _ => false

/-- One step from the start of a line ends as the line says. -/
def runs (start : List Item) (code : List Byte) (fin : List Item) : Bool :=
  ends fin (step (startOf start code))

/-! ### The Example line of every instruction rule -/

theorem test_examples_of_41_ABA_to_ASLD_1 :
    [runs [.a 0x3C, .b 0xC7] [0x1B] [.a 0x03, .b 0xC7, .ccr 0xF1, .pc 0x0101],
      runs [.ix 0xFFF0, .b 0xFF] [0x3A] [.ix 0x00EF, .b 0xFF, .ccr 0xD0, .pc 0x0101],
      runs [.iy 0x1234, .b 0x80] [0x18, 0x3A] [.iy 0x12B4, .b 0x80, .ccr 0xD0, .pc 0x0102],
      runs [.a 0xFF, .ccr 0xD1] [0x89, 0x00] [.a 0x00, .ccr 0xF5, .pc 0x0102],
      runs [.b 0x7F, .ccr 0xD1, .m 0x0040 [0x00]] [0xD9, 0x40] [.b 0x80, .ccr 0xFA, .pc 0x0102],
      runs [.a 0x7F] [0x8B, 0x01] [.a 0x80, .ccr 0xFA, .pc 0x0102],
      runs [.b 0xFF, .ix 0x2000, .m 0x2002 [0x01]] [0xEB, 0x02] [.b 0x00, .ccr 0xF5, .pc 0x0102],
      runs [.a 0x7F, .b 0xFF] [0xC3, 0x00, 0x01] [.a 0x80, .b 0x00, .ccr 0xDA, .pc 0x0103],
      runs [.a 0xF0, .ccr 0xD3] [0x84, 0x0F] [.a 0x00, .ccr 0xD5, .pc 0x0102],
      runs [.b 0xAA, .m 0x1234 [0xCC]] [0xF4, 0x12, 0x34] [.b 0x88, .ccr 0xD8, .pc 0x0103],
      runs [.m 0x2000 [0xC0]] [0x78, 0x20, 0x00] [.m 0x2000 [0x80], .ccr 0xD9, .pc 0x0103],
      runs [.a 0x40] [0x48] [.a 0x80, .ccr 0xDA, .pc 0x0101],
      runs [.b 0x80] [0x58] [.b 0x00, .ccr 0xD7, .pc 0x0101],
      runs [.a 0x40, .b 0x80] [0x05] [.a 0x81, .b 0x00, .ccr 0xDA, .pc 0x0101]].all id = true := by decide +kernel

theorem test_examples_of_42_ASR_to_BVC_1 :
    [runs [.m 0x2000 [0x81]] [0x77, 0x20, 0x00] [.m 0x2000 [0xC0], .ccr 0xD9, .pc 0x0103],
      runs [.a 0x01] [0x47] [.a 0x00, .ccr 0xD7, .pc 0x0101],
      runs [.b 0xFE] [0x57] [.b 0xFF, .ccr 0xDA, .pc 0x0101],
      runs [] [0x24, 0x10] [.pc 0x0112, .ccr 0xD0],
      runs [.m 0x0040 [0xFF]] [0x15, 0x40, 0x0F] [.m 0x0040 [0xF0], .ccr 0xD8, .pc 0x0103],
      runs [.ccr 0xD1] [0x25, 0xFE] [.pc 0x0100, .ccr 0xD1],
      runs [.ccr 0xD4] [0x27, 0x7F] [.pc 0x0181, .ccr 0xD4],
      runs [.ccr 0xDA] [0x2C, 0x05] [.pc 0x0107, .ccr 0xDA],
      runs [.ccr 0xD4] [0x2E, 0x05] [.pc 0x0102, .ccr 0xD4], runs [] [0x22, 0x05] [.pc 0x0107, .ccr 0xD0],
      runs [.ccr 0xD1] [0x24, 0xFC] [.pc 0x0102, .ccr 0xD1],
      runs [.a 0x7F] [0x85, 0x80] [.a 0x7F, .ccr 0xD4, .pc 0x0102],
      runs [.b 0x81, .iy 0x3000, .m 0x3003 [0x80]] [0x18, 0xE5, 0x03] [.b 0x81, .ccr 0xD8, .pc 0x0103],
      runs [.ccr 0xD8] [0x2F, 0x05] [.pc 0x0107, .ccr 0xD8]].all id = true := by decide +kernel

theorem test_examples_of_42_ASR_to_BVC_2 :
    [runs [] [0x25, 0x05] [.pc 0x0102, .ccr 0xD0], runs [.ccr 0xD4] [0x23, 0x05] [.pc 0x0107, .ccr 0xD4],
      runs [.ccr 0xD2] [0x2D, 0x05] [.pc 0x0107, .ccr 0xD2],
      runs [.ccr 0xD8] [0x2B, 0x80] [.pc 0x0082, .ccr 0xD8], runs [] [0x26, 0xFD] [.pc 0x00FF, .ccr 0xD0],
      runs [.ccr 0xD8] [0x2A, 0x05] [.pc 0x0102, .ccr 0xD8], runs [] [0x20, 0xFE] [.pc 0x0100, .ccr 0xD0],
      runs [.m 0x0040 [0x7E]] [0x13, 0x40, 0x81, 0x10] [.pc 0x0114, .ccr 0xD0, .m 0x0040 [0x7E]],
      runs [] [0x21, 0xFE] [.pc 0x0102, .ccr 0xD0],
      runs [.m 0x0040 [0xC3]] [0x12, 0x40, 0x81, 0x10] [.pc 0x0114, .ccr 0xD0, .m 0x0040 [0xC3]],
      runs [.ix 0x1000, .m 0x1002 [0x10]] [0x1C, 0x02, 0x81] [.m 0x1002 [0x91], .ccr 0xD8, .pc 0x0103],
      runs [.sp 0x01FF] [0x8D, 0x10] [.pc 0x0112, .sp 0x01FD, .m 0x01FE [0x01, 0x02], .ccr 0xD0],
      runs [.ccr 0xD2] [0x28, 0x05] [.pc 0x0102, .ccr 0xD2]].all id = true := by decide +kernel

theorem test_examples_of_43_BVS_to_DECB_1 :
    [runs [.ccr 0xD2] [0x29, 0x05] [.pc 0x0107, .ccr 0xD2],
      runs [.a 0x10, .b 0x20] [0x11] [.a 0x10, .b 0x20, .ccr 0xD9, .pc 0x0101],
      runs [.ccr 0xDF] [0x0C] [.ccr 0xDE, .pc 0x0101], runs [] [0x0E] [.ccr 0xC0, .pc 0x0101],
      runs [.ix 0x2000, .ccr 0xDB, .m 0x2005 [0xAA]] [0x6F, 0x05] [.m 0x2005 [0x00], .ccr 0xD4, .pc 0x0102],
      runs [.a 0x55, .ccr 0xDB] [0x4F] [.a 0x00, .ccr 0xD4, .pc 0x0101],
      runs [.b 0x55, .ccr 0xD9] [0x5F] [.b 0x00, .ccr 0xD4, .pc 0x0101],
      runs [.ccr 0xDF] [0x0A] [.ccr 0xDD, .pc 0x0101],
      runs [.a 0x80] [0x81, 0x01] [.a 0x80, .ccr 0xD2, .pc 0x0102],
      runs [.b 0x05, .iy 0x0040, .m 0x0040 [0x06]] [0x18, 0xE1, 0x00] [.b 0x05, .ccr 0xD9, .pc 0x0103],
      runs [.m 0x2000 [0xFF]] [0x73, 0x20, 0x00] [.m 0x2000 [0x00], .ccr 0xD5, .pc 0x0103],
      runs [.a 0x55] [0x43] [.a 0xAA, .ccr 0xD9, .pc 0x0101],
      runs [.b 0x00] [0x53] [.b 0xFF, .ccr 0xD9, .pc 0x0101],
      runs [.a 0x12, .b 0x34] [0x1A, 0x83, 0x12, 0x34] [.a 0x12, .b 0x34, .ccr 0xD4, .pc 0x0104]].all id = true := by decide +kernel

theorem test_examples_of_43_BVS_to_DECB_2 :
    [runs [.ix 0x0FFF] [0x8C, 0x10, 0x00] [.ix 0x0FFF, .ccr 0xD9, .pc 0x0103],
      runs [.iy 0x8000, .ix 0x0050, .m 0x0052 [0x00, 0x01]] [0x1A, 0xAC, 0x02] [.iy 0x8000, .ccr 0xD2, .pc 0x0103],
      runs [.a 0x7D] [0x19] [.a 0x83, .ccrButV 0xD8, .pc 0x0101],
      runs [.m 0x2000 [0x80], .ccr 0xD1] [0x7A, 0x20, 0x00] [.m 0x2000 [0x7F], .ccr 0xD3, .pc 0x0103],
      runs [.a 0x00] [0x4A] [.a 0xFF, .ccr 0xD8, .pc 0x0101],
      runs [.b 0x01] [0x5A] [.b 0x00, .ccr 0xD4, .pc 0x0101]].all id = true := by decide +kernel

theorem test_examples_of_44_DES_to_LDD_1 :
    [runs [.sp 0x0000] [0x34] [.sp 0xFFFF, .ccr 0xD0, .pc 0x0101],
      runs [.ix 0x0001] [0x09] [.ix 0x0000, .ccr 0xD4, .pc 0x0101],
      runs [.iy 0x0000, .ccr 0xD4] [0x18, 0x09] [.iy 0xFFFF, .ccr 0xD0, .pc 0x0102],
      runs [.a 0x0F, .ccr 0xD1] [0x88, 0xFF] [.a 0xF0, .ccr 0xD9, .pc 0x0102],
      runs [.b 0x5A, .m 0x0040 [0x5A]] [0xD8, 0x40] [.b 0x00, .ccr 0xD4, .pc 0x0102],
      runs [.a 0x00, .b 0x01, .ix 0x0002] [0x03] [.a 0x00, .b 0x00, .ix 0x8000, .ccr 0xD0, .pc 0x0101],
      runs [.a 0x00, .b 0x64, .ix 0x0007] [0x02] [.a 0x00, .b 0x02, .ix 0x000E, .ccr 0xD0, .pc 0x0101],
      runs [.m 0x2000 [0x7F], .ccr 0xD1] [0x7C, 0x20, 0x00] [.m 0x2000 [0x80], .ccr 0xDB, .pc 0x0103],
      runs [.a 0xFF] [0x4C] [.a 0x00, .ccr 0xD4, .pc 0x0101],
      runs [.b 0x7F] [0x5C] [.b 0x80, .ccr 0xDA, .pc 0x0101],
      runs [.sp 0xFFFF] [0x31] [.sp 0x0000, .ccr 0xD0, .pc 0x0101],
      runs [.ix 0xFFFF] [0x08] [.ix 0x0000, .ccr 0xD4, .pc 0x0101],
      runs [.iy 0x1234, .ccr 0xD4] [0x18, 0x08] [.iy 0x1235, .ccr 0xD0, .pc 0x0102],
      runs [.ix 0x2000] [0x6E, 0x04] [.pc 0x2004, .ix 0x2000, .ccr 0xD0]].all id = true := by decide +kernel

theorem test_examples_of_44_DES_to_LDD_2 :
    [runs [.sp 0x01FF] [0xBD, 0x20, 0x00] [.pc 0x2000, .sp 0x01FD, .m 0x01FE [0x01, 0x03], .ccr 0xD0],
      runs [.ccr 0xD7] [0x86, 0x80] [.a 0x80, .ccr 0xD9, .pc 0x0102],
      runs [.iy 0xFFFF, .m 0x00FE [0x00]] [0x18, 0xE6, 0xFF] [.b 0x00, .ccr 0xD4, .pc 0x0103],
      runs [.m 0x2000 [0x00, 0x80]] [0xFC, 0x20, 0x00] [.a 0x00, .b 0x80, .ccr 0xD0, .pc 0x0103]].all id = true := by decide +kernel

theorem test_examples_of_45_LDS_to_ORAB_1 :
    [runs [] [0x8E, 0x01, 0xFF] [.sp 0x01FF, .ccr 0xD0, .pc 0x0103],
      runs [.ix 0x2000, .m 0x2002 [0x30, 0x00]] [0xEE, 0x02] [.ix 0x3000, .ccr 0xD0, .pc 0x0102],
      runs [.iy 0x1234, .ccr 0xD8] [0x18, 0xCE, 0x00, 0x00] [.iy 0x0000, .ccr 0xD4, .pc 0x0104],
      runs [.ix 0x0040, .m 0x0040 [0x81]] [0x68, 0x00] [.m 0x0040 [0x02], .ccr 0xD3, .pc 0x0102],
      runs [.a 0x81] [0x48] [.a 0x02, .ccr 0xD3, .pc 0x0101],
      runs [.b 0x01] [0x58] [.b 0x02, .ccr 0xD0, .pc 0x0101],
      runs [.a 0x40, .b 0x80] [0x05] [.a 0x81, .b 0x00, .ccr 0xDA, .pc 0x0101],
      runs [.m 0x2000 [0x01]] [0x74, 0x20, 0x00] [.m 0x2000 [0x00], .ccr 0xD7, .pc 0x0103],
      runs [.a 0xFE, .ccr 0xD9] [0x44] [.a 0x7F, .ccr 0xD0, .pc 0x0101],
      runs [.b 0x03] [0x54] [.b 0x01, .ccr 0xD3, .pc 0x0101],
      runs [.a 0x01, .b 0x00] [0x04] [.a 0x00, .b 0x80, .ccr 0xD0, .pc 0x0101],
      runs [.a 0xFF, .b 0xFF] [0x3D] [.a 0xFE, .b 0x01, .ccr 0xD0, .pc 0x0101],
      runs [.m 0x2000 [0x80]] [0x70, 0x20, 0x00] [.m 0x2000 [0x80], .ccr 0xDB, .pc 0x0103],
      runs [.a 0x01] [0x40] [.a 0xFF, .ccr 0xD9, .pc 0x0101]].all id = true := by decide +kernel

theorem test_examples_of_45_LDS_to_ORAB_2 :
    [runs [.b 0x00, .ccr 0xD1] [0x50] [.b 0x00, .ccr 0xD4, .pc 0x0101],
      runs [] [0x01] [.pc 0x0101, .ccr 0xD0],
      runs [.a 0xF0] [0x8A, 0x0F] [.a 0xFF, .ccr 0xD8, .pc 0x0102],
      runs [.b 0x00, .m 0x2000 [0x00]] [0xFA, 0x20, 0x00] [.b 0x00, .ccr 0xD4, .pc 0x0103]].all id = true := by decide +kernel

theorem test_examples_of_46_PSHA_to_SEV_1 :
    [runs [.a 0x5A, .sp 0x01FF] [0x36] [.sp 0x01FE, .m 0x01FF [0x5A], .ccr 0xD0, .pc 0x0101],
      runs [.b 0xA5, .sp 0x0000] [0x37] [.m 0x0000 [0xA5], .sp 0xFFFF, .ccr 0xD0, .pc 0x0101],
      runs [.ix 0x1234, .sp 0x01FF] [0x3C] [.sp 0x01FD, .m 0x01FE [0x12, 0x34], .pc 0x0101],
      runs [.iy 0xABCD, .sp 0x0000] [0x18, 0x3C] [.sp 0xFFFE, .m 0x0000 [0xCD], .m 0xFFFF [0xAB], .pc 0x0102],
      runs [.sp 0x01FE, .m 0x01FF [0x80]] [0x32] [.a 0x80, .sp 0x01FF, .ccr 0xD0, .pc 0x0101],
      runs [.sp 0xFFFF, .m 0x0000 [0x77]] [0x33] [.b 0x77, .sp 0x0000, .pc 0x0101],
      runs [.sp 0x01FD, .m 0x01FE [0x12, 0x34]] [0x38] [.ix 0x1234, .sp 0x01FF, .ccr 0xD0, .pc 0x0101],
      runs [.sp 0x01FD, .m 0x01FE [0xAB, 0xCD]] [0x18, 0x38] [.iy 0xABCD, .sp 0x01FF, .ccr 0xD0, .pc 0x0102],
      runs [.m 0x2000 [0x80], .ccr 0xD1] [0x79, 0x20, 0x00] [.m 0x2000 [0x01], .ccr 0xD3, .pc 0x0103],
      runs [.a 0x55] [0x49] [.a 0xAA, .ccr 0xDA, .pc 0x0101],
      runs [.b 0x80] [0x59] [.b 0x00, .ccr 0xD7, .pc 0x0101],
      runs [.ix 0x0040, .m 0x0040 [0x01], .ccr 0xD1] [0x66, 0x00] [.m 0x0040 [0x80], .ccr 0xD9, .pc 0x0102],
      runs [.a 0x02] [0x46] [.a 0x01, .ccr 0xD0, .pc 0x0101],
      runs [.b 0x01] [0x56] [.b 0x00, .ccr 0xD7, .pc 0x0101]].all id = true := by decide +kernel

theorem test_examples_of_46_PSHA_to_SEV_2 :
    [runs [.sp 0x01F6, .m 0x01F7 [0xC1, 0x22, 0x11, 0x12, 0x34, 0x56, 0x78, 0x20, 0x00]] [0x3B] [.a 0x11, .b 0x22, .ix 0x1234, .iy 0x5678, .sp 0x01FF, .pc 0x2000, .ccr 0xC1],
      runs [.sp 0x01FD, .m 0x01FE [0x20, 0x00]] [0x39] [.pc 0x2000, .sp 0x01FF, .ccr 0xD0],
      runs [.a 0x00, .b 0x01] [0x10] [.a 0xFF, .b 0x01, .ccr 0xD9, .pc 0x0101],
      runs [.a 0x00, .ccr 0xD1] [0x82, 0xFF] [.a 0x00, .ccr 0xD5, .pc 0x0102],
      runs [.b 0x10, .iy 0x2000, .m 0x2001 [0x0F], .ccr 0xD1] [0x18, 0xE2, 0x01] [.b 0x00, .ccr 0xD4, .pc 0x0103],
      runs [] [0x0D] [.ccr 0xD1, .pc 0x0101], runs [.ccr 0xC0] [0x0F] [.ccr 0xD0, .pc 0x0101],
      runs [] [0x0B] [.ccr 0xD2, .pc 0x0101]].all id = true := by decide +kernel

theorem test_examples_of_47_STAA_to_TSX_1 :
    [runs [.a 0x80, .ccr 0xD7] [0x97, 0x40] [.m 0x0040 [0x80], .ccr 0xD9, .pc 0x0102],
      runs [.b 0x00, .iy 0x2000, .m 0x2002 [0xFF]] [0x18, 0xE7, 0x02] [.m 0x2002 [0x00], .ccr 0xD4, .pc 0x0103],
      runs [.a 0x12, .b 0x34] [0xDD, 0x40] [.m 0x0040 [0x12, 0x34], .ccr 0xD0, .pc 0x0102],
      runs [.ccr 0x50] [0xCF] [.run .stopped, .pc 0x0101, .ccr 0x50],
      runs [.sp 0x01FF] [0x9F, 0x40] [.m 0x0040 [0x01, 0xFF], .ccr 0xD0, .pc 0x0102],
      runs [.ix 0x8000, .iy 0x0040] [0xCD, 0xEF, 0x00] [.m 0x0040 [0x80, 0x00], .ccr 0xD8, .pc 0x0103],
      runs [.iy 0x0000, .ix 0x0040, .m 0x0040 [0xFF, 0xFF]] [0x1A, 0xEF, 0x00] [.m 0x0040 [0x00, 0x00], .ccr 0xD4, .pc 0x0103],
      runs [.a 0x80] [0x80, 0x01] [.a 0x7F, .ccr 0xD2, .pc 0x0102],
      runs [.a 0x77, .b 0x05] [0xC0, 0x10] [.a 0x77, .b 0xF5, .ccr 0xD9, .pc 0x0102],
      runs [.a 0x00, .b 0x00] [0x83, 0x00, 0x01] [.a 0xFF, .b 0xFF, .ccr 0xD9, .pc 0x0103],
      runs [.a 0x11, .b 0x22, .ix 0x3333, .iy 0x4444, .sp 0x01FF, .ccr 0xC0, .m 0xFFF6 [0xE0, 0x00]] [0x3F] [.pc 0xE000, .sp 0x01F6, .ccr 0xD0, .m 0x01F7 [0xC0, 0x22, 0x11, 0x33, 0x33, 0x44, 0x44, 0x01, 0x01]],
      runs [.a 0x80, .b 0x01] [0x16] [.a 0x80, .b 0x80, .ccr 0xD8, .pc 0x0101],
      runs [.a 0xFF, .ccr 0x90] [0x06] [.a 0xFF, .ccr 0xBF, .pc 0x0101],
      runs [.a 0x80, .b 0x00] [0x17] [.a 0x00, .b 0x00, .ccr 0xD4, .pc 0x0101]].all id = true := by decide +kernel

theorem test_examples_of_47_STAA_to_TSX_2 :
    [runs [.m 0xFFF8 [0xE1, 0x00], .sp 0x01FF] [0x00] [.pc 0xE100, .sp 0x01F6, .ccr 0xD0, .m 0x01FE [0x01, 0x00]],
      runs [.a 0x00, .ccr 0xD5] [0x07] [.a 0xD5, .ccr 0xD5, .pc 0x0101],
      runs [.m 0x2000 [0x80], .ccr 0xD3] [0x7D, 0x20, 0x00] [.m 0x2000 [0x80], .ccr 0xD8, .pc 0x0103],
      runs [.a 0x00, .ccr 0xD3] [0x4D] [.a 0x00, .ccr 0xD4, .pc 0x0101],
      runs [.b 0x7F, .ccr 0xDF] [0x5D] [.b 0x7F, .ccr 0xD0, .pc 0x0101],
      runs [.sp 0x01FD] [0x30] [.ix 0x01FE, .sp 0x01FD, .ccr 0xD0, .pc 0x0101]].all id = true := by decide +kernel

theorem test_examples_of_48_TSY_to_XGDY_1 :
    [runs [.sp 0xFFFF] [0x18, 0x30] [.iy 0x0000, .sp 0xFFFF, .ccr 0xD0, .pc 0x0102],
      runs [.ix 0x0200] [0x35] [.sp 0x01FF, .ix 0x0200, .ccr 0xD0, .pc 0x0101],
      runs [.iy 0x0000] [0x18, 0x35] [.sp 0xFFFF, .iy 0x0000, .ccr 0xD0, .pc 0x0102],
      runs [.a 0x11, .b 0x22, .ix 0x3333, .iy 0x4444, .sp 0x01FF, .ccr 0xC0] [0x3E] [.run .waiting, .sp 0x01F6, .pc 0x0101, .ccr 0xC0, .m 0x01F7 [0xC0, 0x22, 0x11, 0x33, 0x33, 0x44, 0x44, 0x01, 0x01]],
      runs [.a 0x12, .b 0x34, .ix 0xABCD] [0x8F] [.a 0xAB, .b 0xCD, .ix 0x1234, .ccr 0xD0, .pc 0x0101],
      runs [.a 0x00, .b 0x01, .iy 0xFF00] [0x18, 0x8F] [.a 0xFF, .b 0x00, .iy 0x0001, .ccr 0xD0, .pc 0x0102]].all id = true := by decide +kernel

/-! ### Overflowing and failing operands, wraps: lines of 95_test_vectors.md, at most one an instruction -/

theorem test_vectors_of_95 :
    [runs [.a 0x80] [0x8B, 0x80] [.a 0x00, .ccr 0xD7, .pc 0x0102],
     runs [.a 0xFF, .ccr 0xD1] [0x89, 0x00] [.a 0x00, .ccr 0xF5],
     runs [.a 0x00, .ccr 0xD1] [0x82, 0xFF] [.a 0x00, .ccr 0xD5],
     runs [.a 0x00, .b 0xFF, .ccr 0xF0, .m 0x0050 [0x00, 0x01]] [0xD3, 0x50] [.a 0x01, .b 0x00, .ccr 0xF0],
     runs [.ix 0x0300, .m 0x0300 [0x03, 0x00]] [0xAC, 0x00] [.ix 0x0300, .ccr 0xD4],
     runs [.a 0x80] [0x40] [.a 0x80, .ccr 0xDB],
     runs [.a 0x80, .b 0x81] [0x05] [.a 0x01, .b 0x02, .ccr 0xD3],
     runs [.ix 0xFFFF, .m 0x0001 [0x99]] [0xE6, 0x02] [.b 0x99, .ccr 0xD8],
     runs [.m 0xFFFF [0x00], .m 0x0000 [0x00]] [0xFC, 0xFF, 0xFF] [.a 0x00, .b 0x00, .ccr 0xD4],
     runs [.a 0xAA, .b 0xBB] [0xFD, 0xFF, 0xFF] [.m 0xFFFF [0xAA], .m 0x0000 [0xBB], .ccr 0xD8],
     runs [.a 0xFF, .ccr 0x00] [0x06] [.a 0xFF, .ccr 0xBF],
     runs [.pc 0xFFF8] [0x20, 0x10] [.pc 0x000A],
     runs [.m 0x0040 [0x80]] [0x12, 0x40, 0x81, 0x10] [.pc 0x0104],
     runs [.m 0x0040 [0x01]] [0x13, 0x40, 0x81, 0x10] [.pc 0x0104],
     runs [.iy 0xFF80] [0x18, 0x6E, 0xFF] [.pc 0x007F],
     runs [.a 0xFF, .b 0xFF] [0x3D] [.a 0xFE, .b 0x01, .ccr 0xD0],
     runs [.a 0x12, .b 0x34, .ix 0x0000] [0x02] [.ix 0xFFFF, .ccr 0xD1],
     runs [.a 0x00, .b 0x05, .ix 0x0005] [0x03] [.ix 0xFFFF, .ccr 0xD2],
     runs [.sp 0x01F6, .ccr 0x90, .m 0x01F7 [0xFF, 0x00, 0x00, 0x00, 0x00, 0x00, 0x00, 0x02, 0x00]] [0x3B]
       [.sp 0x01FF, .ccr 0xBF, .pc 0x0200],
     runs [.ccr 0x50] [0xCF] [.ccr 0x50, .pc 0x0101, .run .stopped]].all id = true := by decide +kernel

/-! ### Exceptions and requests: V16 and V17 of 95_test_vectors.md -/

/-- The registers of V16 and V17, and their four vectors. -/
def loaded : List Item :=
  [.a 0x11, .b 0x22, .ix 0x3344, .iy 0x5566, .sp 0x01FF, .m 0xFFF2 [0xD0, 0x00], .m 0xFFF4 [0xD1, 0x00],
   .m 0xFFF8 [0xE1, 0x00], .m 0xFFFE [0xC0, 0x00]]

/-- The same at a boundary at which the requests are pending. -/
def pendingAt (ccr : Byte) (r : RunState) (code : List Byte) (reqs : List Request) : State :=
  { startOf (loaded ++ [.ccr ccr, .run r]) code with oracle := ⟨[reqs], .always []⟩ }

/-- The frame of V16 with the given CCR and return address. -/
def frame (ccr : Byte) (pcHigh pcLow : Byte) : Item :=
  .m 0x01F7 [ccr, 0x22, 0x11, 0x33, 0x44, 0x55, 0x66, pcHigh, pcLow]

def irq : Request := ⟨.maskable, 0xFFF2⟩
def xirq : Request := ⟨.xirq, 0xFFF4⟩
def reset : Request := ⟨.reset, 0xFFFE⟩

/-- V16.6 to V16.11: the illegal-opcode trap, with the address of the code's first byte; V16.7: with the
address after it. -/
theorem test_illegal_opcode :
    [ends [frame 0xC5 0x01 0x00, .sp 0x01F6, .ccr 0xD5, .pc 0xE100] (step (pendingAt 0xC5 .running [0x41] [])),
     ends [.m 0x01FE [0x01, 0x00], .pc 0xE100] (step (pendingAt 0xC5 .running [0x18, 0x86] [])),
     ends [.m 0x01FE [0x01, 0x00], .pc 0xE100] (step (pendingAt 0xC5 .running [0xCD, 0x18] [])),
     ends [.m 0x01FE [0x01, 0x00], .pc 0xE100] (step (pendingAt 0xC5 .running [0x00] [])),
     ends [frame 0xC5 0x01 0x01, .sp 0x01F6, .ccr 0xD5, .pc 0xE100]
       (step { pendingAt 0xC5 .running [0x41] [] with
         config := { Config.standard with illegalStackedPc := .nextAddress } })].all id = true := by
  decide +kernel

/-- V17.1: S, X and I set, PC from the vector. -/
theorem test_reset_request :
    (match step (pendingAt 0x00 .running [0x01] [irq, reset]) with
      | .next t => t.ccr.s && t.ccr.x && t.ccr.i && t.pc == 0xC000 && t.run == .running && !t.iDelay
      | _ => false) = true := by decide +kernel

/-- V17.2 to V17.6: masked requests, and the three kinds of entry. -/
theorem test_requests :
    [ends [.pc 0x0101, .ccr 0xD0] (step (pendingAt 0xD0 .running [0x01] [irq])),
     ends [frame 0xC1 0x01 0x00, .sp 0x01F6, .ccr 0xD1, .pc 0xD000] (step (pendingAt 0xC1 .running [0x01] [irq])),
     ends [frame 0x90 0x01 0x00, .sp 0x01F6, .ccr 0xD0, .pc 0xD100] (step (pendingAt 0x90 .running [0x01] [xirq])),
     ends [.pc 0x0101, .ccr 0xD0] (step (pendingAt 0xD0 .running [0x01] [xirq])),
     ends [.pc 0xD100, .ccr 0xD0] (step (pendingAt 0x80 .running [0x01] [irq, xirq]))].all id = true := by
  decide +kernel

/-- V17.7: at the boundary after CLI the request is held off and the NOP executes. -/
theorem test_holdOff :
    (match step { pendingAt 0xC0 .running [0x01] [irq] with iDelay := true } with
      | .next t => t.pc == 0x0101 && !t.iDelay
      | _ => false) = true := by decide +kernel

/-- V17.9 to V17.13: WAITING, STOPPED and TESTLOCK. -/
theorem test_waiting_stopped_locked :
    [ends [.sp 0x01FF, .ccr 0xD0, .pc 0xD000, .run .running] (step (pendingAt 0xC0 .waiting [0x01] [irq])),
     ends [.sp 0x01FF, .pc 0x0100, .run .waiting] (step (pendingAt 0xD0 .waiting [0x01] [irq, xirq])),
     ends [.sp 0x01FF, .ccr 0x50, .pc 0x0100, .run .running] (step (pendingAt 0x50 .stopped [0x01] [xirq])),
     ends [frame 0x10 0x01 0x00, .sp 0x01F6, .ccr 0x50, .pc 0xD100] (step (pendingAt 0x10 .stopped [0x01] [xirq])),
     ends [.pc 0x0100, .run .testLock] (step (pendingAt 0x00 .testLock [0x01] [irq, xirq])),
     ends [.pc 0x0101, .run .testLock] (step { pendingAt 0xD0 .running [0x00] [] with
       config := { Config.standard with testMode := true } })].all id = true := by decide +kernel

/-! ### Witnesses: the hypotheses of the statements, met together -/

theorem pending {s : State} {cls : RequestClass} (h : (firstOf cls s.requests).isSome = true) :
    s.Pending cls := by
  obtain ⟨r, hr⟩ := Option.isSome_iff_exists.mp h
  exact ⟨r, firstOf_some hr⟩

theorem notPending {s : State} {cls : RequestClass} (h : firstOf cls s.requests = none) :
    ¬ s.Pending cls := by
  rintro ⟨r, hr, hc⟩
  exact firstOf_none.mp h r hr hc

theorem quiet {s : State} (h : (s.asked.boundary s.requests).isNone = true) : s.Quiet :=
  s.boundary_none.mp (Option.isNone_iff_eq_none.mp h)

/-- A well-formed instruction: EncodedInstructionDecodesToItself, EncodingsHaveOneToFiveBytes. -/
theorem witness_wellFormed : (Instr.brset (.indY 0xFF) 0x80 0xFE).wf = true := rfl

/-- DecodedBytesAreTheEncodingOfTheirInstruction. -/
theorem witness_decoded : decode [0x18, 0x6E, 0xFF] = .ok ⟨.jmp (.indY 0xFF), 3⟩ := rfl

/-- WordsInMemoryAreBigEndian, at the top of the address space. -/
theorem witness_storage : State.reset.IsStorage 0xFFFF ∧ State.reset.IsStorage (0xFFFF + 1) := ⟨rfl, rfl⟩

/-- A machine with a read-only cell at `$2000`, nothing at `$3000` and devices from `$1000` to `$103F`. -/
def withDevices : State :=
  { State.reset with
    a := 0x5A
    config := { Config.standard with
      platform := [⟨0x2000, 0x2000, .readOnly⟩, ⟨0x3000, 0x3000, .absent⟩, ⟨0x1000, 0x103F, .device⟩] } }

/-- AccessesReachWhatStandsBehindTheAddress: the four kinds of cell, and an address other than the one stored to. -/
theorem witness_cells :
    withDevices.IsStorage (withDevices.ea (.indX 0xFF)) ∧ withDevices.IsPlain (withDevices.ea (.ext 0x2000)) ∧
    withDevices.kindAt (withDevices.ea (.ext 0x2000)) = .readOnly ∧
    withDevices.kindAt (withDevices.ea (.ext 0x3000)) = .absent ∧
    withDevices.kindAt (withDevices.ea (.ext 0x103F)) = .device ∧
    (0x2001 : Word) ≠ withDevices.ea (.ext 0x2000) := by
  unfold State.IsStorage State.IsPlain
  decide

/-- R62: a store to a device cell is its write function, and nothing else changes but the flags. -/
theorem test_deviceWrite : exec (.staa (.ext 0x1000)) withDevices = .next { withDevices with
    ccr := { CCR.reset with n := false, z := false, v := false }
    devices := (Config.deviceWrite 0 0x1000 0x5A).state
    mem := deviceStores withDevices.config.platform [] (Config.deviceWrite 0 0x1000 0x5A).stores } := rfl

/-- R62: a pull from a device cell is its read function, with the side effect that it says. -/
theorem test_deviceRead : exec .pula { withDevices with sp := 0x1010 } = .next { withDevices with
    sp := 0x1011
    a := (Config.deviceRead 0 0x1011).value
    devices := (Config.deviceRead 0 0x1011).act.state
    mem := deviceStores withDevices.config.platform [] (Config.deviceRead 0 0x1011).act.stores } := rfl

/-- R59: what a device stores is what the next read of the cell returns, in a cell that the CPU cannot write too. -/
theorem test_deviceStores :
    (let t := withDevices.acted ⟨7, [(0x0040, 0x12), (0x2000, 0x34), (0x3000, 0x56), (0x0040, 0x78)]⟩
     t.readByte 0x0040 == 0x78 && t.readByte 0x2000 == 0x34 && t.devices == 7 && t.mem.wf &&
       t.mem.length == 2) = true := by decide

/-- R7: a request that lasts without end is pending again when it has been asked; the platform may answer too. -/
theorem test_unendingRequest :
    ({ State.reset with oracle := ⟨[[]], .always [irq]⟩ } : State).asked.requests = [irq] ∧
    ({ State.reset with oracle := ⟨[], .always [irq]⟩ } : State).asked.asked.requests = [irq] ∧
    ({ State.reset with oracle := ⟨[], .platform⟩ } : State).requests = Config.intRequest 0 0 :=
  ⟨rfl, rfl, rfl⟩

/-- OnlyStoringInstructionsChangeMemory, RtiPullsTheFrame: no device anywhere. -/
theorem witness_plain : (∀ a : Word, State.reset.IsPlain a) ∧
    ∀ k : Nat, 1 ≤ k → k ≤ 9 → State.reset.IsPlain (State.reset.above k) :=
  ⟨fun _ h => (by cases h), fun _ _ _ h => (by cases h)⟩

/-- StepKeepsParametersAndTestLock: a platform without devices, and one with them while STOPPED and while not. -/
theorem witness_platforms : State.reset.config.hasDevices = false ∧
    ({ withDevices with run := .stopped } : State).run = .stopped ∧
    withDevices.config.hasDevices = true ∧ withDevices.run ≠ .stopped :=
  ⟨rfl, rfl, rfl, by decide⟩

/-- R519: while STOPPED the clocks of the peripherals are stopped; R59: else the devices act at the boundary. -/
theorem test_stoppedDevicesRest :
    step { withDevices with run := .stopped } = .next { withDevices with run := .stopped, draws := 1 } ∧
    withDevices.asked.devices = (Config.deviceTick 0).state := ⟨rfl, rfl⟩

/-- StepRunsTheDecodedInstruction. -/
theorem witness_runsDecoded : (pendingAt 0xD0 .running [0x8B, 0x01] [irq]).Quiet ∧
    decode (pendingAt 0xD0 .running [0x8B, 0x01] [irq]).asked.fetchBytes = .ok ⟨.adda (.imm 0x01), 2⟩ ∧
    ∀ k < 2, (pendingAt 0xD0 .running [0x8B, 0x01] [irq]).IsPlain
      ((pendingAt 0xD0 .running [0x8B, 0x01] [irq]).pc + BitVec.ofNat 16 k) :=
  ⟨quiet rfl, rfl, fun _ _ h => (by cases h)⟩

/-- EveryStepKeepsTheInvariant, with the hold-off bit set. -/
theorem witness_invariant :
    let s := { startOf [.ccr 0xC0] [0x01] with iDelay := true }
    s.Inv ∧ step s = .next (s.asked.advance 1) :=
  ⟨⟨by decide +kernel, fun _ => ⟨rfl, rfl, rfl⟩, by decide +kernel, by decide +kernel⟩, rfl⟩

/-- XIsSetOnlyByXirqOrReset: X rises in a step that takes an xirq. -/
theorem witness_xRises :
    let s := pendingAt 0x90 .running [0x01] [xirq]
    step s = .next (s.asked.enter 0xFFF4 0x0100 true true) ∧ s.ccr.x = false ∧
      (s.asked.enter 0xFFF4 0x0100 true true).ccr.x = true := ⟨rfl, rfl, rfl⟩

/-- MasksAreChangedOnlyByTheirWriters: TAP changes S, CLI clears I. -/
theorem witness_masks :
    (match step (startOf [.a 0x00] [0x06]) with | .next t => !t.ccr.s | _ => false) = true ∧
    (startOf [.a 0x00] [0x06]).ccr.s = true ∧
    (match step (startOf [] [0x0E]) with | .next t => !t.ccr.i | _ => false) = true ∧
    (startOf [] [0x0E]).ccr.i = true := by decide +kernel

/-- NoOtherInstructionChangesTheHalfCarry, OnlyStoringInstructionsChangeMemory and
OnlyStackInstructionsMoveTheStackPointer: an instruction that answers a next state. -/
theorem witness_answers : exec .inx State.reset =
    .next { State.reset with ix := 1, ccr := { CCR.reset with z := false } } := rfl

/-- StepKeepsParametersAndTestLock: locked, with a request that is not reset. -/
theorem witness_locked :
    let s := pendingAt 0x00 .testLock [0x01] [xirq]
    step s = .next s.asked ∧ s.run = .testLock ∧ ¬ s.Pending .reset := ⟨rfl, rfl, notPending rfl⟩

/-- ResetRequestIsTakenFirst: a reset request beside others, locked. -/
theorem witness_resetRequest : (pendingAt 0x00 .testLock [0x01] [irq, xirq, reset]).Pending .reset :=
  pending rfl

/-- XirqIsTakenAheadOfMaskable. -/
theorem witness_xirq :
    let s := pendingAt 0x80 .running [0x01] [irq, xirq]
    ¬ s.Pending .reset ∧ s.run = .running ∧ s.ccr.x = false ∧ s.Pending .xirq :=
  ⟨notPending rfl, rfl, rfl, pending rfl⟩

/-- HighestMaskableRequestIsTaken: two maskable requests and a masked xirq; then no xirq. -/
theorem witness_maskable :
    let s := pendingAt 0xC0 .running [0x01] [irq, ⟨.maskable, 0xFFF0⟩, xirq]
    let t := pendingAt 0x80 .running [0x01] [irq]
    (¬ s.Pending .reset ∧ s.run = .running ∧ s.ccr.x = true ∧ s.ccr.i = false ∧ s.iDelay = false ∧
      s.Pending .maskable) ∧
    (¬ t.Pending .reset ∧ t.run = .running ∧ ¬ t.Pending .xirq ∧ t.ccr.i = false ∧ t.iDelay = false ∧
      t.Pending .maskable) :=
  ⟨⟨notPending rfl, rfl, rfl, rfl, rfl, pending rfl⟩, ⟨notPending rfl, rfl, notPending rfl, rfl, rfl, pending rfl⟩⟩

/-- ClearingIDefersMaskableRequestsByOneInstruction: CLI, TAP and RTI, and after CLI the next boundary
with a maskable request. -/
theorem witness_clearingI :
    let s := { startOf [] [0x0E, 0x01] with oracle := ⟨[[]], .always [irq]⟩ }
    let u := startOf [.a 0xC0] [0x06]
    let v := startOf [] [0x3B]
    (s.Quiet ∧ decode s.asked.fetchBytes = .ok ⟨.cli, 1⟩ ∧ s.ccr.i = true) ∧
    (u.Quiet ∧ decode u.asked.fetchBytes = .ok ⟨.tap, 1⟩ ∧ u.a.getLsbD 4 = false ∧ u.ccr.i = true) ∧
    (v.Quiet ∧ decode v.asked.fetchBytes = .ok ⟨.rti, 1⟩) ∧
    (let t := { s.asked with pc := 0x0101, ccr := { s.ccr with i := false }, iDelay := true }
     step s = .next t ∧ t.iDelay = true ∧ ¬ t.Pending .reset ∧ t.ccr.x = true) :=
  ⟨⟨quiet rfl, rfl, rfl⟩, ⟨quiet rfl, rfl, rfl, rfl⟩, ⟨quiet rfl, rfl⟩, ⟨rfl, rfl, notPending rfl, rfl⟩⟩

/-- UnassignedCodeTakesTheIllegalOpcodeTrap: one byte, and a byte after a prefix byte. -/
theorem witness_unassigned :
    ((startOf [] [0x41]).Quiet ∧ decode (startOf [] [0x41]).asked.fetchBytes = .error (.unassigned 0x41)) ∧
    ((startOf [] [0x18, 0x18]).Quiet ∧
      decode (startOf [] [0x18, 0x18]).asked.fetchBytes = .error (.unassignedAfter 0x18 0x18)) :=
  ⟨⟨quiet rfl, rfl⟩, ⟨quiet rfl, rfl⟩⟩

/-- WaitEndsOnlyByAnAllowedRequest: an xirq, a maskable request, masked requests, none. -/
theorem witness_waiting :
    let s := pendingAt 0x90 .waiting [0x01] [irq, xirq]
    let t := pendingAt 0xC0 .waiting [0x01] [irq, ⟨.maskable, 0xFFF0⟩, xirq]
    let u := pendingAt 0xD0 .waiting [0x01] [irq, xirq]
    let v := pendingAt 0x80 .waiting [0x01] []
    (s.run = .waiting ∧ ¬ s.Pending .reset ∧ s.ccr.x = false ∧ s.Pending .xirq) ∧
    (t.run = .waiting ∧ ¬ t.Pending .reset ∧ t.ccr.x = true ∧ t.ccr.i = false ∧ t.iDelay = false ∧
      t.Pending .maskable) ∧
    (u.run = .waiting ∧ ¬ u.Pending .reset ∧ u.ccr.x = true ∧ u.ccr.i = true) ∧
    (v.run = .waiting ∧ ¬ v.Pending .reset ∧ ¬ v.Pending .xirq ∧ ¬ v.Pending .maskable) :=
  ⟨⟨rfl, notPending rfl, rfl, pending rfl⟩, ⟨rfl, notPending rfl, rfl, rfl, rfl, pending rfl⟩,
   ⟨rfl, notPending rfl, rfl, rfl⟩, ⟨rfl, notPending rfl, notPending rfl, notPending rfl⟩⟩

/-- StopEndsByXirqOrUnmaskedIrqPin: an xirq with X clear and with X set, the IRQ pin, and another
maskable request. -/
theorem witness_stopped :
    let s := pendingAt 0x10 .stopped [0x01] [xirq]
    let t := pendingAt 0x50 .stopped [0x01] [xirq]
    let u := pendingAt 0x40 .stopped [0x01] [irq]
    let v := pendingAt 0x40 .stopped [0x01] [⟨.maskable, 0xFFF0⟩]
    (s.run = .stopped ∧ ¬ s.Pending .reset ∧ s.Pending .xirq ∧ s.ccr.x = false) ∧
    (t.run = .stopped ∧ ¬ t.Pending .reset ∧ t.Pending .xirq ∧ t.ccr.x = true) ∧
    (u.run = .stopped ∧ ¬ u.Pending .reset ∧ ¬ u.Pending .xirq ∧ u.ccr.i = false ∧
      ∃ r ∈ u.requests, r.cls = .maskable ∧ r.vector = u.config.vecIrq) ∧
    (v.run = .stopped ∧ ¬ v.Pending .reset ∧ ¬ v.Pending .xirq ∧
      ∀ r ∈ v.requests, ¬ (r.cls = .maskable ∧ r.vector = v.config.vecIrq)) :=
  ⟨⟨rfl, notPending rfl, pending rfl, rfl⟩, ⟨rfl, notPending rfl, pending rfl, rfl⟩,
   ⟨rfl, notPending rfl, notPending rfl, rfl, irq, List.mem_singleton.mpr rfl, rfl, rfl⟩,
   ⟨rfl, notPending rfl, notPending rfl, fun r hr => by
      rw [List.mem_singleton.mp (show r ∈ [(⟨.maskable, 0xFFF0⟩ : Request)] from hr)]; decide⟩⟩

/-- RtiUndoesEveryEntry: an xirq taken with X clear, the nine cells being storage. -/
theorem witness_entry :
    let s := startOf [.sp 0x0004, .ccr 0x90] [0x01]
    Enters s (s.enter 0xFFF4 0x0100 true true) 0xFFF4 0x0100 true ∧ s.ccr.x = false ∧
      (∀ k : Nat, 1 ≤ k → k ≤ 9 → s.IsStorage (s.sp - 9 + BitVec.ofNat 16 k)) ∧
      s.IsPlain 0xFFF4 ∧ s.IsPlain (0xFFF4 + 1) :=
  ⟨State.enter_enters _ _ _ _, rfl, fun _ _ _ => rfl, fun h => (by cases h), fun h => (by cases h)⟩

/-- HandlerAfterWaiReturnsPastIt. -/
theorem witness_wai :
    let s := startOf [.sp 0x0004, .ccr 0x80] [0x01]
    exec .wai s = .next ((s.stackFrame s.pc).setRun .waiting) ∧ s.ccr.x = false ∧
      (∀ k : Nat, 1 ≤ k → k ≤ 9 → s.IsStorage (s.sp - 9 + BitVec.ofNat 16 k)) ∧
      s.IsPlain 0xFFF2 ∧ s.IsPlain (0xFFF2 + 1) :=
  ⟨rfl, rfl, fun _ _ _ => rfl, fun h => (by cases h), fun h => (by cases h)⟩

/-- StopAndTestInTheirModes: S set and clear, in a test mode and outside one. -/
theorem witness_modes :
    State.reset.ccr.s = true ∧ (startOf [.ccr 0x50] []).ccr.s = false ∧
    State.reset.config.testMode = false ∧
    ({ State.reset with config := { Config.standard with testMode := true } } : State).config.testMode = true :=
  ⟨rfl, rfl, rfl, rfl⟩

/-- LoadsFillTheirRegister: an immediate and a word in memory. -/
theorem witness_loads :
    (0xBEEF : Word).toNat = 256 * (0xBE : Byte).toNat + (0xEF : Byte).toNat ∧
    (let s := startOf [.m 0x2000 [0xBE, 0xEF]] []
     s.readByte (s.ea (.ext 0x2000)) = 0xBE ∧
       (s.reading (s.ea (.ext 0x2000))).readByte (s.ea (.ext 0x2000) + 1) = 0xEF) :=
  ⟨rfl, rfl, rfl⟩

/-- MultiplyAndDivide: a divisor, zero, a proper fraction, an improper one at its boundary. -/
theorem witness_divisions :
    (startOf [.ix 0x0001] []).ix.toNat ≠ 0 ∧ State.reset.ix.toNat = 0 ∧
    (startOf [.a 0xFF, .b 0xFE, .ix 0xFFFF] []).d.toNat < (startOf [.a 0xFF, .b 0xFE, .ix 0xFFFF] []).ix.toNat ∧
    (startOf [.b 0x05, .ix 0x0005] []).ix.toNat ≤ (startOf [.b 0x05, .ix 0x0005] []).d.toNat := by
  decide +kernel

/-- DecimalAdjustFollowsItsTable: a value of A and the CCR at a boundary of each of the nine rows. -/
theorem witness_daa :
    [(0x99, 0xD0, 0x99, 0xD8), (0x8F, 0xD0, 0x95, 0xD8), (0x93, 0xF0, 0x99, 0xF8), (0xA9, 0xD0, 0x09, 0xD1),
     (0x9A, 0xD0, 0x00, 0xD5), (0xF3, 0xF0, 0x59, 0xF1), (0x29, 0xD1, 0x89, 0xD9), (0x2F, 0xD1, 0x95, 0xD9),
     (0x33, 0xF1, 0x99, 0xF9)].all (fun (a, f, a', f') =>
        runs [.a a, .ccr f] [0x19] [.a a', .ccrButV f', .pc 0x0101]) = true := by decide +kernel

/-- ConditionalBranches, CompareThenBranchOrdersNumbers, BitManipulation: the conditions met and not
met. -/
theorem witness_branches :
    (State.reset.ccr.c = false ∧ State.reset.ccr.z = false ∧ State.reset.ccr.n = State.reset.ccr.v) ∧
    (let f := (startOf [.ccr 0x0D] []).ccr
     f.c = true ∧ f.z = true ∧ f.n = true ∧ f.n ≠ f.v) ∧ (startOf [.ccr 0x02] []).ccr.v = true ∧
    (let s := startOf [.a 0x80] []
     (s.opr8 (.imm 0x01)).toNat < s.a.toNat ∧ s.a.toInt < (s.opr8 (.imm 0x01)).toInt ∧
       s.a = s.opr8 (.imm 0x80) ∧ s.a.toNat < (s.opr8 (.imm 0x81)).toNat ∧
       (s.opr8 (.imm 0x80)).toInt ≤ s.a.toInt) ∧
    (let s := startOf [.m 0x0040 [0x81]] []
     (∀ k < 8, (0x81 : Byte).getLsbD k = true → (s.readByte (s.ea (.dir 0x40))).getLsbD k = true) ∧
     (∀ k < 8, (0x7E : Byte).getLsbD k = true → (s.readByte (s.ea (.dir 0x40))).getLsbD k = false)) := by
  decide +kernel

/-- DecimalAdjustAfterAdditionIsBcdAddition, at the largest digits. -/
theorem witness_bcd :
    let s := startOf [.a 0x99] []
    s.a.toNat / 16 ≤ 9 ∧ s.a.toNat % 16 ≤ 9 ∧ (s.opr8 (.imm 0x99)).toNat / 16 ≤ 9 ∧
      (s.opr8 (.imm 0x99)).toNat % 16 ≤ 9 := by decide +kernel

/-- SecondFractionalDivideGivesTheNextSixteenBits. -/
theorem witness_fraction : (startOf [.b 0x01, .ix 0x0003] []).d.toNat < (startOf [.b 0x01, .ix 0x0003] []).ix.toNat := by
  decide +kernel

/-- SubroutinesReturnAndPushesAreUndone, with SP at the bottom of the address space. -/
theorem witness_stack : State.reset.IsStorage State.reset.sp ∧ State.reset.IsStorage (State.reset.sp - 1) :=
  ⟨rfl, rfl⟩


end Sys2Proof.Tests
end

section
/-! The effective address of each memory mode by the numbers, the two STAA codes that reach DIR and EXT, and the
loads of an index register from memory; from these O6. -/

namespace Sys2Proof.Machine

/-! ### The effective address, per mode -/

/-- DIR (R124): the operand byte is zero-extended, so the address lies in the first 256 cells. -/
theorem State.ea_dir_toNat (s : State) (dd : Byte) : (s.ea (.dir dd)).toNat = dd.toNat := by
  rw [State.ea, BitVec.toNat_setWidth, Nat.mod_eq_of_lt (by omega)]

/-- EXT (R125): the operand bytes are the address, the high byte first. -/
theorem State.ea_ext_wordOf_toNat (s : State) (hh ll : Byte) :
    (s.ea (.ext (wordOf hh ll))).toNat = 256 * hh.toNat + ll.toNat :=
  wordOf_toNat hh ll

/-- The offset of an indexed mode is unsigned (R126) and the sum wraps (R54). -/
theorem toNat_add_zeroExtend (base : Word) (ff : Byte) :
    (base + ff.zeroExtend 16).toNat = (base.toNat + ff.toNat) % 65536 := by
  rw [BitVec.toNat_add, BitVec.toNat_setWidth, Nat.add_mod_mod]

theorem State.ea_indX_toNat (s : State) (ff : Byte) :
    (s.ea (.indX ff)).toNat = (s.ix.toNat + ff.toNat) % 65536 :=
  toNat_add_zeroExtend s.ix ff

theorem State.ea_indY_toNat (s : State) (ff : Byte) :
    (s.ea (.indY ff)).toNat = (s.iy.toNat + ff.toNat) % 65536 :=
  toNat_add_zeroExtend s.iy ff

/-! ### The codes of STAA in DIR and EXT (R380) -/

theorem decode_staa_dir (dd : Byte) (rest : List Byte) :
    decode (0x97 :: dd :: rest) = .ok ⟨.staa (.dir dd), 2⟩ := rfl

theorem decode_staa_ext (hh ll : Byte) (rest : List Byte) :
    decode (0xB7 :: hh :: ll :: rest) = .ok ⟨.staa (.ext (wordOf hh ll)), 3⟩ := rfl

/-! ### Loads of an index register from memory: the address is that of the state before (R321, R322) -/

theorem exec_ldx_mem (s : State) (m : Mem) :
    exec (.ldx (.mem m)) s = .next { s.readingWord (s.ea m) with
      ix := s.readWord (s.ea m), ccr := s.ccr.logic (s.readWord (s.ea m)) } := rfl

theorem exec_ldy_mem (s : State) (m : Mem) :
    exec (.ldy (.mem m)) s = .next { s.readingWord (s.ea m) with
      iy := s.readWord (s.ea m), ccr := s.ccr.logic (s.readWord (s.ea m)) } := rfl

/-- Settles O6: the four modes by the numbers, and the loads of IX and IY through their own old value. -/
theorem effectiveAddressesOfTheMemoryModes : Obligations.EffectiveAddressesOfTheMemoryModes := by
  unfold Obligations.EffectiveAddressesOfTheMemoryModes
  intro s dd hh ll ff rest
  exact ⟨⟨.dir dd, decode_staa_dir dd rest, s.ea_dir_toNat dd⟩,
    ⟨.ext (wordOf hh ll), decode_staa_ext hh ll rest, s.ea_ext_wordOf_toNat hh ll⟩,
    s.ea_indX_toNat ff, s.ea_indY_toNat ff,
    ⟨_, exec_ldx_mem s (.indX ff)⟩, ⟨_, exec_ldy_mem s (.indY ff)⟩⟩

end Sys2Proof.Machine
end

section
/-! The step of a word by one by the numbers, ABX, ABY, INS and DES as updates of one register, and their codes and
counts; from these O43. -/

namespace Sys2Proof.Machine

/-! ### A word stepped by one wraps (R54) -/

theorem toNat_add_one (w : Word) : (w + 1).toNat = (w.toNat + 1) % 65536 :=
  BitVec.toNat_add w 1

theorem toNat_sub_one_step (w : Word) : ((w - 1).toNat + 1) % 65536 = w.toNat := by
  rw [← toNat_add_one, BitVec.sub_add_cancel]

/-! ### The four instructions as updates of one register -/

/-- ABX (R201): B is zero-extended, never sign-extended. -/
theorem exec_abx (s : State) : exec .abx s = .next { s with ix := s.ix + s.b.zeroExtend 16 } := rfl

/-- ABY (R202): as ABX, of IY. -/
theorem exec_aby (s : State) : exec .aby s = .next { s with iy := s.iy + s.b.zeroExtend 16 } := rfl

/-- INS (R300). -/
theorem exec_ins (s : State) : exec .ins s = .next { s with sp := s.sp + 1 } := rfl

/-- DES (R290). -/
theorem exec_des (s : State) : exec .des s = .next { s with sp := s.sp - 1 } := rfl

/-! ### Their codes and counts, as the tables of the four rules print them -/

theorem coded_abx : Coded .abx [0x3A] 3 := ⟨rfl, fun _ => rfl, rfl⟩
theorem coded_aby : Coded .aby [0x18, 0x3A] 4 := ⟨rfl, fun _ => rfl, rfl⟩
theorem coded_ins : Coded .ins [0x31] 3 := ⟨rfl, fun _ => rfl, rfl⟩
theorem coded_des : Coded .des [0x34] 3 := ⟨rfl, fun _ => rfl, rfl⟩

/-- Settles O43: each instruction writes one register, whose new value is a sum or a step modulo 65536. -/
theorem accumulatorAndStackPointerAdditions : Obligations.AccumulatorAndStackPointerAdditions := by
  unfold Obligations.AccumulatorAndStackPointerAdditions
  intro s
  exact ⟨⟨_, toNat_add_zeroExtend s.ix s.b, exec_abx s⟩, ⟨_, toNat_add_zeroExtend s.iy s.b, exec_aby s⟩,
    ⟨_, toNat_add_one s.sp, exec_ins s⟩, ⟨_, toNat_sub_one_step s.sp, exec_des s⟩,
    coded_abx, coded_aby, coded_ins, coded_des⟩

end Sys2Proof.Machine
end

section
/-! CLC, CLV, SEC, SEI and SEV as updates of one flag of the CCR, and their codes and counts; from these O48. -/

namespace Sys2Proof.Machine

/-! ### The five instructions as updates of one flag: the other seven and the rest of the state are kept -/

/-- CLC (R262). -/
theorem exec_clc (s : State) : exec .clc s = .next { s with ccr := { s.ccr with c := false } } := rfl

/-- CLV (R267). -/
theorem exec_clv (s : State) : exec .clv s = .next { s with ccr := { s.ccr with v := false } } := rfl

/-- SEC (R369). -/
theorem exec_sec (s : State) : exec .sec s = .next { s with ccr := { s.ccr with c := true } } := rfl

/-- SEI (R370): unlike CLI, it leaves the hold-off bit `iDelay` as it is. -/
theorem exec_sei (s : State) : exec .sei s = .next { s with ccr := { s.ccr with i := true } } := rfl

/-- SEV (R371). -/
theorem exec_sev (s : State) : exec .sev s = .next { s with ccr := { s.ccr with v := true } } := rfl

/-! ### Their codes and counts, as the tables of the five rules print them -/

theorem coded_clc : Coded .clc [0x0C] 2 := ⟨rfl, fun _ => rfl, rfl⟩
theorem coded_clv : Coded .clv [0x0A] 2 := ⟨rfl, fun _ => rfl, rfl⟩
theorem coded_sec : Coded .sec [0x0D] 2 := ⟨rfl, fun _ => rfl, rfl⟩
theorem coded_sei : Coded .sei [0x0F] 2 := ⟨rfl, fun _ => rfl, rfl⟩
theorem coded_sev : Coded .sev [0x0B] 2 := ⟨rfl, fun _ => rfl, rfl⟩

/-- Settles O48: one update of one flag per instruction, and one row of the encoding table per instruction. -/
theorem singleFlagInstructions : Obligations.SingleFlagInstructions := by
  unfold Obligations.SingleFlagInstructions
  intro s
  exact ⟨exec_clc s, exec_clv s, exec_sec s, exec_sei s, exec_sev s,
    coded_clc, coded_clv, coded_sec, coded_sei, coded_sev⟩

end Sys2Proof.Machine
end

section
/-! The transfers between SP and an index register and the exchanges with D as updates of the registers they name,
and their codes and counts; from these O47. -/

namespace Sys2Proof.Machine

/-! ### D by the numbers: A is its high byte, B its low byte (R22) -/

theorem State.d_toNat (s : State) : s.d.toNat = 256 * s.a.toNat + s.b.toNat :=
  wordOf_toNat s.a s.b

/-! ### The four transfers as updates of one register: the flags are kept -/

/-- TSX (R399): the last byte pushed stands at SP + 1. -/
theorem exec_tsx (s : State) : exec .tsx s = .next { s with ix := s.sp + 1 } := rfl

/-- TSY (R410). -/
theorem exec_tsy (s : State) : exec .tsy s = .next { s with iy := s.sp + 1 } := rfl

/-- TXS (R411): the step back that undoes TSX. -/
theorem exec_txs (s : State) : exec .txs s = .next { s with sp := s.ix - 1 } := rfl

/-- TYS (R412). -/
theorem exec_tys (s : State) : exec .tys s = .next { s with sp := s.iy - 1 } := rfl

/-! ### The two exchanges: both sides take the value from before the instruction (R143) -/

/-- XGDX (R414): D receives the old IX, although the meaning writes IX first. -/
theorem exec_xgdx (s : State) :
    exec .xgdx s = .next { s with ix := s.d, a := highByte s.ix, b := lowByte s.ix } := rfl

/-- XGDY (R415). -/
theorem exec_xgdy (s : State) :
    exec .xgdy s = .next { s with iy := s.d, a := highByte s.iy, b := lowByte s.iy } := rfl

/-! ### Their codes and counts, as the tables of the six rules print them -/

theorem coded_tsx : Coded .tsx [0x30] 3 := ⟨rfl, fun _ => rfl, rfl⟩
theorem coded_tsy : Coded .tsy [0x18, 0x30] 4 := ⟨rfl, fun _ => rfl, rfl⟩
theorem coded_txs : Coded .txs [0x35] 3 := ⟨rfl, fun _ => rfl, rfl⟩
theorem coded_tys : Coded .tys [0x18, 0x35] 4 := ⟨rfl, fun _ => rfl, rfl⟩
theorem coded_xgdx : Coded .xgdx [0x8F] 3 := ⟨rfl, fun _ => rfl, rfl⟩
theorem coded_xgdy : Coded .xgdy [0x18, 0x8F] 4 := ⟨rfl, fun _ => rfl, rfl⟩

/-- Settles O47: a step of SP up, a step of an index register down, and D by its two bytes, each from the state
before. -/
theorem transfersAndExchangesOfTheIndexRegisters : Obligations.TransfersAndExchangesOfTheIndexRegisters := by
  unfold Obligations.TransfersAndExchangesOfTheIndexRegisters
  intro s
  exact ⟨⟨_, toNat_add_one s.sp, exec_tsx s, exec_tsy s⟩, ⟨_, toNat_sub_one_step s.ix, exec_txs s⟩,
    ⟨_, toNat_sub_one_step s.iy, exec_tys s⟩, ⟨_, s.d_toNat, exec_xgdx s, exec_xgdy s⟩,
    coded_tsx, coded_tsy, coded_txs, coded_tys, coded_xgdx, coded_xgdy⟩

end Sys2Proof.Machine
end

section
/-! The encoder by operand shapes: a list of opcode bytes that the maps send to an operand format is read with the
operand bytes that the encoder writes for that format; from this O1. The length of what is read; from this
and O1, O5. -/

namespace Sys2Proof

open Sys2Proof.Machine

/-! ### Opcode bytes and the format that the maps give them -/

/-- The maps of R85 to R88 send these opcode bytes to this operand format, whatever follows. -/
def IsOpcode (code : List Byte) (f : Form) : Prop :=
  ∀ rest, decode (code ++ rest) = f.read code.length rest

/-- The opcode bytes of the four memory modes of a mnemonic, `make` the instruction of a mode. -/
structure MemOpcodes (dir ext indX indY : List Byte) (make : Mem → Instr) : Prop where
  dir : IsOpcode dir (.dir make)
  ext : IsOpcode ext (.ext make)
  indX : IsOpcode indX (.indX make)
  indY : IsOpcode indY (.indY make)

theorem decode_encodeMem {dir ext indX indY : List Byte} {make : Mem → Instr}
    (h : MemOpcodes dir ext indX indY make) (m : Mem) (rest : List Byte) :
    decode (encodeMem dir ext indX indY m ++ rest) =
      .ok ⟨make m, (encodeMem dir ext indX indY m).length⟩ := by
  cases m with
  | dir dd => simpa [encodeMem, Form.read] using h.dir (dd :: rest)
  | ext a => simpa [encodeMem, Form.read] using h.ext (highByte a :: lowByte a :: rest)
  | indX ff => simpa [encodeMem, Form.read] using h.indX (ff :: rest)
  | indY ff => simpa [encodeMem, Form.read] using h.indY (ff :: rest)

/-- The same for a mnemonic that has no DIR (R97). -/
theorem decode_encodeMem_noDir {ext indX indY : List Byte} {make : Mem → Instr} {m : Mem}
    (hm : m.hasNoDir = true) (he : IsOpcode ext (.ext make)) (hx : IsOpcode indX (.indX make))
    (hy : IsOpcode indY (.indY make)) (rest : List Byte) :
    decode (encodeMem [] ext indX indY m ++ rest) =
      .ok ⟨make m, (encodeMem [] ext indX indY m).length⟩ := by
  cases m with
  | dir dd => cases hm
  | ext a => simpa [encodeMem, Form.read] using he (highByte a :: lowByte a :: rest)
  | indX ff => simpa [encodeMem, Form.read] using hx (ff :: rest)
  | indY ff => simpa [encodeMem, Form.read] using hy (ff :: rest)

theorem decode_encodeSrc8 {imm dir ext indX indY : List Byte} {make : Src8 → Instr}
    (hi : IsOpcode imm (.imm8 fun v => make (.imm v)))
    (hm : MemOpcodes dir ext indX indY fun m => make (.mem m)) (o : Src8) (rest : List Byte) :
    decode (encodeSrc8 imm dir ext indX indY o ++ rest) =
      .ok ⟨make o, (encodeSrc8 imm dir ext indX indY o).length⟩ := by
  cases o with
  | imm v => simpa [encodeSrc8, Form.read] using hi (v :: rest)
  | mem m => exact decode_encodeMem hm m rest

theorem decode_encodeSrc16 {imm dir ext indX indY : List Byte} {make : Src16 → Instr}
    (hi : IsOpcode imm (.imm16 fun v => make (.imm v)))
    (hm : MemOpcodes dir ext indX indY fun m => make (.mem m)) (o : Src16) (rest : List Byte) :
    decode (encodeSrc16 imm dir ext indX indY o ++ rest) =
      .ok ⟨make o, (encodeSrc16 imm dir ext indX indY o).length⟩ := by
  cases o with
  | imm v => simpa [encodeSrc16, Form.read] using hi (highByte v :: lowByte v :: rest)
  | mem m => exact decode_encodeMem hm m rest

/-- BSET and BCLR: the mask follows the operand of the mode (R82, R128). -/
theorem decode_encodeMask {dir indX indY : List Byte} {make : Mem → Byte → Instr} {m : Mem}
    (hm : m.hasNoExt = true) (hd : IsOpcode dir (.dirMask make)) (hx : IsOpcode indX (.indXMask make))
    (hy : IsOpcode indY (.indYMask make)) (mm : Byte) (rest : List Byte) :
    decode (encodeMem dir [] indX indY m ++ [mm] ++ rest) =
      .ok ⟨make m mm, (encodeMem dir [] indX indY m ++ [mm]).length⟩ := by
  cases m with
  | dir dd => simpa [encodeMem, Form.read] using hd (dd :: mm :: rest)
  | ext a => cases hm
  | indX ff => simpa [encodeMem, Form.read] using hx (ff :: mm :: rest)
  | indY ff => simpa [encodeMem, Form.read] using hy (ff :: mm :: rest)

/-- BRSET and BRCLR: the mask and the offset follow the operand of the mode (R82, R128). -/
theorem decode_encodeMaskRel {dir indX indY : List Byte} {make : Mem → Byte → Byte → Instr} {m : Mem}
    (hm : m.hasNoExt = true) (hd : IsOpcode dir (.dirMaskRel make)) (hx : IsOpcode indX (.indXMaskRel make))
    (hy : IsOpcode indY (.indYMaskRel make)) (mm rr : Byte) (rest : List Byte) :
    decode (encodeMem dir [] indX indY m ++ [mm, rr] ++ rest) =
      .ok ⟨make m mm rr, (encodeMem dir [] indX indY m ++ [mm, rr]).length⟩ := by
  cases m with
  | dir dd => simpa [encodeMem, Form.read] using hd (dd :: mm :: rr :: rest)
  | ext a => cases hm
  | indX ff => simpa [encodeMem, Form.read] using hx (ff :: mm :: rr :: rest)
  | indY ff => simpa [encodeMem, Form.read] using hy (ff :: mm :: rr :: rest)

/-- The round trip of one instruction, by the shape of its operands. Each opcode is looked up in the maps. -/
theorem decode_encode {i : Instr} (h : i.wf = true) (rest : List Byte) :
    decode (encode i ++ rest) = .ok ⟨i.canonical, (encode i).length⟩ := by
  cases i with
  | aba | abx | aby | asla | aslb | asld | asra | asrb | cba | clc | cli | clra | clrb | clv | coma | comb
  | daa | deca | decb | des | dex | dey | fdiv | idiv | inca | incb | ins | inx | iny | lsla | lslb | lsld
  | lsra | lsrb | lsrd | mul | nega | negb | nop | psha | pshb | pshx | pshy | pula | pulb | pulx | puly
  | rola | rolb | rora | rorb | rti | rts | sba | sec | sei | sev | stop | swi | tab | tap | tba | test
  | tpa | tsta | tstb | tsx | tsy | txs | tys | wai | xgdx | xgdy => rfl
  | bcc rr | bcs rr | beq rr | bge rr | bgt rr | bhi rr | bhs rr | ble rr | blo rr | bls rr | blt rr
  | bmi rr | bne rr | bpl rr | bra rr | brn rr | bsr rr | bvc rr | bvs rr => rfl
  | adca o | adcb o | adda o | addb o | anda o | andb o | bita o | bitb o | cmpa o | cmpb o | eora o
  | eorb o | ldaa o | ldab o | oraa o | orab o | sbca o | sbcb o | suba o | subb o =>
    exact decode_encodeSrc8 (fun _ => rfl) ⟨fun _ => rfl, fun _ => rfl, fun _ => rfl, fun _ => rfl⟩ o rest
  | addd o | cpd o | cpx o | cpy o | ldd o | lds o | ldx o | ldy o | subd o =>
    exact decode_encodeSrc16 (fun _ => rfl) ⟨fun _ => rfl, fun _ => rfl, fun _ => rfl, fun _ => rfl⟩ o rest
  | jsr m | staa m | stab m | std m | sts m | stx m | sty m =>
    exact decode_encodeMem ⟨fun _ => rfl, fun _ => rfl, fun _ => rfl, fun _ => rfl⟩ m rest
  | asl m | asr m | clr m | com m | dec m | inc m | jmp m | lsl m | lsr m | neg m | rol m | ror m | tst m =>
    exact decode_encodeMem_noDir h (fun _ => rfl) (fun _ => rfl) (fun _ => rfl) rest
  | bclr m mm | bset m mm =>
    exact decode_encodeMask h (fun _ => rfl) (fun _ => rfl) (fun _ => rfl) mm rest
  | brclr m mm rr | brset m mm rr =>
    exact decode_encodeMaskRel h (fun _ => rfl) (fun _ => rfl) (fun _ => rfl) mm rr rest

/-- Settles O1, by the shape of the operands. -/
theorem encodedInstructionDecodesToItself : Obligations.EncodedInstructionDecodesToItself := by
  unfold Obligations.EncodedInstructionDecodesToItself
  exact fun _ rest h => decode_encode h rest

/-! ### How much is read -/

/-- An operand format has at most three bytes (R82). -/
theorem Form.read_length {k : Nat} {f : Form} {bytes : List Byte} {d : Decoded}
    (h : f.read k bytes = .ok d) : k ≤ d.length ∧ d.length ≤ k + 3 := by
  unfold Form.read at h
  split at h <;> cases h <;> simp

/-- What the decoder answers has one to five bytes (R80): one or two of code, and the operand bytes. -/
theorem decode_length {bytes : List Byte} {d : Decoded} (h : decode bytes = .ok d) :
    1 ≤ d.length ∧ d.length ≤ 5 := by
  unfold decode at h
  split at h
  · cases h
  · split at h
    · split at h
      · cases h
      · split at h
        · have := Form.read_length h
          omega
        · cases h
    · split at h
      · have := Form.read_length h
        omega
      · cases h

/-- Settles O5: the decoder answers the length of the encoding, and never more than five bytes. -/
theorem encodingsHaveOneToFiveBytes : Obligations.EncodingsHaveOneToFiveBytes := by
  unfold Obligations.EncodingsHaveOneToFiveBytes
  exact fun _ h => decode_length (decode_encode h [])

end Sys2Proof
end

section
/-! What an operand format of the opcode maps stands for: every format that a map gives a code makes well-formed
instructions under their first-listed names, whose encoding is the code and the operand bytes. The maps row by
row; from these O2. -/

namespace Sys2Proof

open Sys2Proof.Machine

/-! ### Sound formats -/

/-- `i` is a well-formed instruction under its first-listed name, and its encoding is `code`. -/
structure EncodedAs (i : Instr) (code : List Byte) : Prop where
  wf : i.wf = true
  canonical : i.canonical = i
  encoded : encode i = code

/-- Every instruction that the format makes after the opcode bytes `code` is encoded as `code` and the operand
bytes in their order (R82, R84). -/
def Form.Sound (code : List Byte) : Form → Prop
  | .inh i => EncodedAs i code
  | .imm8 f => ∀ ii, EncodedAs (f ii) (code ++ [ii])
  | .imm16 f => ∀ v, EncodedAs (f v) (code ++ [highByte v, lowByte v])
  | .dir f => ∀ dd, EncodedAs (f (.dir dd)) (code ++ [dd])
  | .ext f => ∀ a, EncodedAs (f (.ext a)) (code ++ [highByte a, lowByte a])
  | .indX f => ∀ ff, EncodedAs (f (.indX ff)) (code ++ [ff])
  | .indY f => ∀ ff, EncodedAs (f (.indY ff)) (code ++ [ff])
  | .rel f => ∀ rr, EncodedAs (f rr) (code ++ [rr])
  | .dirMask f => ∀ dd mm, EncodedAs (f (.dir dd) mm) (code ++ [dd, mm])
  | .indXMask f => ∀ ff mm, EncodedAs (f (.indX ff) mm) (code ++ [ff, mm])
  | .indYMask f => ∀ ff mm, EncodedAs (f (.indY ff) mm) (code ++ [ff, mm])
  | .dirMaskRel f => ∀ dd mm rr, EncodedAs (f (.dir dd) mm rr) (code ++ [dd, mm, rr])
  | .indXMaskRel f => ∀ ff mm rr, EncodedAs (f (.indX ff) mm rr) (code ++ [ff, mm, rr])
  | .indYMaskRel f => ∀ ff mm rr, EncodedAs (f (.indY ff) mm rr) (code ++ [ff, mm, rr])

/-- The answer that O2 speaks of: a well-formed instruction whose encoding is what was read. -/
def Decoded.Faithful (d : Decoded) (bytes : List Byte) : Prop :=
  d.instr.wf = true ∧ d.instr.canonical = d.instr ∧
    d.length = (encode d.instr).length ∧ bytes.take d.length = encode d.instr

theorem EncodedAs.faithful {i : Instr} {code operands rest : List Byte} {n : Nat}
    (h : EncodedAs i (code ++ operands)) (hn : n = code.length + operands.length) :
    Decoded.Faithful ⟨i, n⟩ (code ++ (operands ++ rest)) := by
  have hlen : n = (code ++ operands).length := by rw [hn, List.length_append]
  refine ⟨h.wf, h.canonical, by rw [h.encoded, hlen], ?_⟩
  rw [h.encoded, ← List.append_assoc, hlen, List.take_left]

/-- What a sound format reads after its opcode bytes is faithful. -/
theorem Form.Sound.read_faithful {code rest : List Byte} {f : Form} {d : Decoded} (hf : f.Sound code)
    (h : f.read code.length rest = .ok d) : d.Faithful (code ++ rest) := by
  unfold Form.read at h
  split at h <;> cases h
  case h_1 => exact EncodedAs.faithful (operands := []) (by rw [List.append_nil]; exact hf) rfl
  case h_3 jj kk rest => simpa using (hf (wordOf jj kk)).faithful (rest := rest) rfl
  case h_5 hh ll rest => simpa using (hf (wordOf hh ll)).faithful (rest := rest) rfl
  case h_2 | h_4 | h_6 | h_7 | h_8 => exact (hf _).faithful rfl
  case h_9 | h_10 | h_11 => exact (hf _ _).faithful rfl
  case h_12 | h_13 | h_14 => exact (hf _ _ _).faithful rfl

/-! ### The maps: row by row of the first byte, and by the second byte after each of the three bytes of R81 -/

theorem opcodeRow0_sound {n : Nat} {f : Form} (h : opcodeRow0 n = some f) :
    f.Sound [BitVec.ofNat 8 (0x00 + n)] := by
  unfold opcodeRow0 at h
  split at h <;> cases h <;> exact ⟨rfl, rfl, rfl⟩

theorem opcodeRow1_sound {n : Nat} {f : Form} (h : opcodeRow1 n = some f) :
    f.Sound [BitVec.ofNat 8 (0x10 + n)] := by
  unfold opcodeRow1 at h
  split at h <;> cases h <;> repeat intro _
  all_goals exact ⟨rfl, rfl, rfl⟩

theorem opcodeRow2_sound {n : Nat} {f : Form} (h : opcodeRow2 n = some f) :
    f.Sound [BitVec.ofNat 8 (0x20 + n)] := by
  unfold opcodeRow2 at h
  split at h <;> cases h <;> repeat intro _
  all_goals exact ⟨rfl, rfl, rfl⟩

theorem opcodeRow3_sound {n : Nat} {f : Form} (h : opcodeRow3 n = some f) :
    f.Sound [BitVec.ofNat 8 (0x30 + n)] := by
  unfold opcodeRow3 at h
  split at h <;> cases h <;> exact ⟨rfl, rfl, rfl⟩

theorem opcodeRow4_sound {n : Nat} {f : Form} (h : opcodeRow4 n = some f) :
    f.Sound [BitVec.ofNat 8 (0x40 + n)] := by
  unfold opcodeRow4 at h
  split at h <;> cases h <;> exact ⟨rfl, rfl, rfl⟩

theorem opcodeRow5_sound {n : Nat} {f : Form} (h : opcodeRow5 n = some f) :
    f.Sound [BitVec.ofNat 8 (0x50 + n)] := by
  unfold opcodeRow5 at h
  split at h <;> cases h <;> exact ⟨rfl, rfl, rfl⟩

theorem opcodeRow6_sound {n : Nat} {f : Form} (h : opcodeRow6 n = some f) :
    f.Sound [BitVec.ofNat 8 (0x60 + n)] := by
  unfold opcodeRow6 at h
  split at h <;> cases h <;> repeat intro _
  all_goals exact ⟨rfl, rfl, rfl⟩

theorem opcodeRow7_sound {n : Nat} {f : Form} (h : opcodeRow7 n = some f) :
    f.Sound [BitVec.ofNat 8 (0x70 + n)] := by
  unfold opcodeRow7 at h
  split at h <;> cases h <;> repeat intro _
  all_goals exact ⟨rfl, rfl, rfl⟩

theorem opcodeRow8_sound {n : Nat} {f : Form} (h : opcodeRow8 n = some f) :
    f.Sound [BitVec.ofNat 8 (0x80 + n)] := by
  unfold opcodeRow8 at h
  split at h <;> cases h <;> repeat intro _
  all_goals exact ⟨rfl, rfl, rfl⟩

theorem opcodeRow9_sound {n : Nat} {f : Form} (h : opcodeRow9 n = some f) :
    f.Sound [BitVec.ofNat 8 (0x90 + n)] := by
  unfold opcodeRow9 at h
  split at h <;> cases h <;> repeat intro _
  all_goals exact ⟨rfl, rfl, rfl⟩

theorem opcodeRowA_sound {n : Nat} {f : Form} (h : opcodeRowA n = some f) :
    f.Sound [BitVec.ofNat 8 (0xA0 + n)] := by
  unfold opcodeRowA at h
  split at h <;> cases h <;> repeat intro _
  all_goals exact ⟨rfl, rfl, rfl⟩

theorem opcodeRowB_sound {n : Nat} {f : Form} (h : opcodeRowB n = some f) :
    f.Sound [BitVec.ofNat 8 (0xB0 + n)] := by
  unfold opcodeRowB at h
  split at h <;> cases h <;> repeat intro _
  all_goals exact ⟨rfl, rfl, rfl⟩

theorem opcodeRowC_sound {n : Nat} {f : Form} (h : opcodeRowC n = some f) :
    f.Sound [BitVec.ofNat 8 (0xC0 + n)] := by
  unfold opcodeRowC at h
  split at h <;> cases h <;> repeat intro _
  all_goals exact ⟨rfl, rfl, rfl⟩

theorem opcodeRowD_sound {n : Nat} {f : Form} (h : opcodeRowD n = some f) :
    f.Sound [BitVec.ofNat 8 (0xD0 + n)] := by
  unfold opcodeRowD at h
  split at h <;> cases h <;> repeat intro _
  all_goals exact ⟨rfl, rfl, rfl⟩

theorem opcodeRowE_sound {n : Nat} {f : Form} (h : opcodeRowE n = some f) :
    f.Sound [BitVec.ofNat 8 (0xE0 + n)] := by
  unfold opcodeRowE at h
  split at h <;> cases h <;> repeat intro _
  all_goals exact ⟨rfl, rfl, rfl⟩

theorem opcodeRowF_sound {n : Nat} {f : Form} (h : opcodeRowF n = some f) :
    f.Sound [BitVec.ofNat 8 (0xF0 + n)] := by
  unfold opcodeRowF at h
  split at h <;> cases h <;> repeat intro _
  all_goals exact ⟨rfl, rfl, rfl⟩

/-- Every entry of the first-byte map is sound (R85). -/
theorem opcodePage1_sound {b : Byte} {f : Form} (h : opcodePage1 b = some f) : f.Sound [b] := by
  have hb : ∀ {r}, b.toNat / 16 = r → [BitVec.ofNat 8 (16 * r + b.toNat % 16)] = [b] := fun hr => by
    rw [← hr, Nat.div_add_mod, BitVec.ofNat_toNat, BitVec.setWidth_eq]
  unfold opcodePage1 at h
  split at h
  next hr => exact hb hr ▸ opcodeRow0_sound h
  next hr => exact hb hr ▸ opcodeRow1_sound h
  next hr => exact hb hr ▸ opcodeRow2_sound h
  next hr => exact hb hr ▸ opcodeRow3_sound h
  next hr => exact hb hr ▸ opcodeRow4_sound h
  next hr => exact hb hr ▸ opcodeRow5_sound h
  next hr => exact hb hr ▸ opcodeRow6_sound h
  next hr => exact hb hr ▸ opcodeRow7_sound h
  next hr => exact hb hr ▸ opcodeRow8_sound h
  next hr => exact hb hr ▸ opcodeRow9_sound h
  next hr => exact hb hr ▸ opcodeRowA_sound h
  next hr => exact hb hr ▸ opcodeRowB_sound h
  next hr => exact hb hr ▸ opcodeRowC_sound h
  next hr => exact hb hr ▸ opcodeRowD_sound h
  next hr => exact hb hr ▸ opcodeRowE_sound h
  next hr => exact hb hr ▸ opcodeRowF_sound h
  next => cases h

/-- A byte whose number is known, as a literal. -/
theorem byte_eq_of_toNat {b : Byte} {n : Nat} (h : b.toNat = n) : b = BitVec.ofNat 8 n := by
  rw [← h, BitVec.ofNat_toNat, BitVec.setWidth_eq]

theorem opcodePage18_sound {b : Byte} {f : Form} (h : opcodePage18 b = some f) : f.Sound [0x18, b] := by
  unfold opcodePage18 at h
  split at h <;> cases h
  all_goals next hb =>
    rw [byte_eq_of_toNat hb]
    repeat intro _
    exact ⟨rfl, rfl, rfl⟩

theorem opcodePage1A_sound {b : Byte} {f : Form} (h : opcodePage1A b = some f) : f.Sound [0x1A, b] := by
  unfold opcodePage1A at h
  split at h <;> cases h
  all_goals next hb =>
    rw [byte_eq_of_toNat hb]
    repeat intro _
    exact ⟨rfl, rfl, rfl⟩

theorem opcodePageCD_sound {b : Byte} {f : Form} (h : opcodePageCD b = some f) : f.Sound [0xCD, b] := by
  unfold opcodePageCD at h
  split at h <;> cases h
  all_goals next hb =>
    rw [byte_eq_of_toNat hb]
    repeat intro _
    exact ⟨rfl, rfl, rfl⟩

theorem isPrefixByte_iff {b : Byte} : isPrefixByte b = true ↔ b = 0x18 ∨ b = 0x1A ∨ b = 0xCD := by
  simp [isPrefixByte, or_assoc]

/-- Every entry of a second-byte map is sound (R86 to R88). -/
theorem opcodeAfter_sound {b0 b1 : Byte} {f : Form} (hp : isPrefixByte b0 = true)
    (h : opcodeAfter b0 b1 = some f) : f.Sound [b0, b1] := by
  rcases isPrefixByte_iff.mp hp with rfl | rfl | rfl
  · exact opcodePage18_sound h
  · exact opcodePage1A_sound h
  · exact opcodePageCD_sound h

/-- What the decoder accepts is faithful: the format comes from one of the maps, and every map is sound. -/
theorem decode_faithful {bytes : List Byte} {d : Decoded} (h : decode bytes = .ok d) : d.Faithful bytes := by
  unfold decode at h
  split at h
  · cases h
  · split at h
    · next hp =>
      split at h
      · cases h
      · split at h
        · next hf => exact (opcodeAfter_sound hp hf).read_faithful (code := [_, _]) h
        · cases h
    · split at h
      · next hf => exact (opcodePage1_sound hf).read_faithful (code := [_]) h
      · cases h

/-- Settles O2: the entries of the maps are sound, and reading the operand bytes keeps that. -/
theorem decodedBytesAreTheEncodingOfTheirInstruction :
    Obligations.DecodedBytesAreTheEncodingOfTheirInstruction := by
  unfold Obligations.DecodedBytesAreTheEncodingOfTheirInstruction
  exact fun _ _ h => decode_faithful h

end Sys2Proof
end

section
/-! What the decoder rejects: an unassigned code by its name, and nothing else where five bytes are shown; from this O3.
And the fifteen sample words, O4. -/

namespace Sys2Proof

/-! ### Reading operand bytes fails only where the list ends -/

theorem Form.read_error {k : Nat} {f : Form} {bytes : List Byte} {e : DecodeError}
    (h : f.read k bytes = .error e) : e = .truncated := by
  unfold Form.read at h
  split at h <;> cases h
  rfl

theorem Form.read_three (k : Nat) (f : Form) (x y z : Byte) (rest : List Byte) :
    ∃ d, f.read k (x :: y :: z :: rest) = .ok d := by
  cases f <;> exact ⟨_, rfl⟩

/-! ### The decoder by the entry of its map -/

theorem decode_of_page1 {b0 : Byte} {f : Form} (hp : isPrefixByte b0 = false) (hf : opcodePage1 b0 = some f)
    (rest : List Byte) : decode (b0 :: rest) = f.read 1 rest := by
  simp [decode, hp, hf]

theorem decode_of_page1_none {b0 : Byte} (hp : isPrefixByte b0 = false) (hf : opcodePage1 b0 = none)
    (rest : List Byte) : decode (b0 :: rest) = .error (.unassigned b0) := by
  simp [decode, hp, hf]

theorem decode_of_after {b0 b1 : Byte} {f : Form} (hp : isPrefixByte b0 = true)
    (hf : opcodeAfter b0 b1 = some f) (rest : List Byte) : decode (b0 :: b1 :: rest) = f.read 2 rest := by
  simp [decode, hp, hf]

theorem decode_of_after_none {b0 b1 : Byte} (hp : isPrefixByte b0 = true)
    (hf : opcodeAfter b0 b1 = none) (rest : List Byte) :
    decode (b0 :: b1 :: rest) = .error (.unassignedAfter b0 b1) := by
  simp [decode, hp, hf]

/-! ### The two kinds of unassigned code (R89) -/

theorem decode_unassignedAfter {b0 b1 : Byte} {rest : List Byte} (hp : isPrefixByte b0 = true) :
    decode (b0 :: b1 :: rest) = .error (.unassignedAfter b0 b1) ↔ opcodeAfter b0 b1 = none := by
  refine ⟨fun h => ?_, fun hf => decode_of_after_none hp hf rest⟩
  cases hf : opcodeAfter b0 b1 with
  | none => rfl
  | some f =>
    rw [decode_of_after hp hf] at h
    cases Form.read_error h

theorem decode_unassigned {b0 : Byte} {rest : List Byte} :
    decode (b0 :: rest) = .error (.unassigned b0) ↔ isPrefixByte b0 = false ∧ opcodePage1 b0 = none := by
  refine ⟨fun h => ?_, fun ⟨hp, hf⟩ => decode_of_page1_none hp hf rest⟩
  cases hp : isPrefixByte b0 with
  | false =>
    cases hf : opcodePage1 b0 with
    | none => exact ⟨rfl, rfl⟩
    | some f =>
      rw [decode_of_page1 hp hf] at h
      cases Form.read_error h
  | true =>
    cases rest with
    | nil => simp [decode, hp] at h
    | cons b1 rest =>
      cases hf : opcodeAfter b0 b1 with
      | none => simp [decode_of_after_none hp hf] at h
      | some f =>
        rw [decode_of_after hp hf] at h
        cases Form.read_error h

/-- Five bytes are always enough (R80): what is rejected is an unassigned code, of two bytes after one of the three
bytes of R81 and else of one. -/
theorem decode_error_consumed {b0 b1 x y z : Byte} {e : DecodeError}
    (h : decode [b0, b1, x, y, z] = .error e) : e.consumed = if isPrefixByte b0 then 2 else 1 := by
  cases hp : isPrefixByte b0 with
  | false =>
    cases hf : opcodePage1 b0 with
    | none =>
      rw [decode_of_page1_none hp hf] at h
      cases h
      rfl
    | some f =>
      obtain ⟨d, hd⟩ := f.read_three 1 b1 x y [z]
      rw [decode_of_page1 hp hf, hd] at h
      cases h
  | true =>
    cases hf : opcodeAfter b0 b1 with
    | none =>
      rw [decode_of_after_none hp hf] at h
      cases h
      rfl
    | some f =>
      obtain ⟨d, hd⟩ := f.read_three 2 x y z []
      rw [decode_of_after hp hf, hd] at h
      cases h

/-- Settles O3: a code is rejected exactly where its map has no entry, and the maps are compared with the lists of R86 to
R89 byte by byte. -/
theorem unassignedCodesAreRejected : Obligations.UnassignedCodesAreRejected := by
  unfold Obligations.UnassignedCodesAreRejected
  intro b0 b1 rest
  refine ⟨decode_unassigned.trans ?_, (decode_unassignedAfter rfl).trans ?_,
    (decode_unassignedAfter rfl).trans ?_, (decode_unassignedAfter rfl).trans ?_⟩
  all_goals rw [← Option.isNone_iff_eq_none]
  case refine_1 => revert b0; decide +kernel
  all_goals revert b1; decide +kernel

/-- Settles O4: each word by evaluation of the decoder. -/
theorem sampleWordsDecodeAsTheTablesPrintThem : Obligations.SampleWordsDecodeAsTheTablesPrintThem := by
  unfold Obligations.SampleWordsDecodeAsTheTablesPrintThem
  exact ⟨rfl, rfl, rfl, rfl, rfl, rfl, rfl, rfl, rfl, rfl, rfl, rfl, rfl, rfl, rfl⟩

end Sys2Proof
end

section
/-! What an instruction can change, said once: that it answers a next state; that all but eight leave the masks, the run
state and the hold-off bit alone, and all keep the parameters, the oracle, the draw counter and the canonical form of
memory. From this the frame statements O16, O17 and O18. -/

namespace Sys2Proof.Machine

/-! ### The divisions and DAA, whose meanings branch: one shape for every branch -/

/-- The masks S, X and I (R28, R29, R31). -/
def CCR.masks (f : CCR) : Bool × Bool × Bool := (f.s, f.x, f.i)

theorem exec_idiv_shape (s : State) : ∃ x y f, exec .idiv s = .next (((s.setIX x).setD y).setCCR f) ∧
    f.masks = s.ccr.masks ∧ f.h = s.ccr.h := by
  simp only [exec, execIdiv]
  split <;> exact ⟨_, _, _, rfl, rfl, rfl⟩

theorem exec_fdiv_shape (s : State) : ∃ x y f, exec .fdiv s = .next (((s.setIX x).setD y).setCCR f) ∧
    f.masks = s.ccr.masks ∧ f.h = s.ccr.h := by
  simp only [exec, execFdiv]
  split <;> exact ⟨_, _, _, rfl, rfl, rfl⟩

theorem exec_daa_shape (s : State) : ∃ p, exec .daa s = .next (s.resultA p) ∧
    p.2.masks = s.ccr.masks ∧ p.2.h = s.ccr.h := by
  simp only [exec, execDaa]
  split <;> exact ⟨_, rfl, rfl, rfl⟩

/-! ### The system instructions by the operations of the model -/

theorem exec_swi (s : State) : exec .swi s = .next (s.enter s.config.vecSwi s.pc false true) := rfl

theorem exec_wai (s : State) : exec .wai s = .next ((s.stackFrame s.pc).setRun .waiting) := rfl

theorem exec_rti (s : State) : exec .rti s = .next s.returnFromInterrupt := rfl

theorem exec_stop (s : State) : exec .stop s = .next (if s.ccr.s then s else s.setRun .stopped) := rfl

theorem exec_test (s : State) : exec .test s =
    .next (if s.config.testMode then s.setRun .testLock else s.illegalOpcode (s.pc - 1) 1) := rfl

/-! ### Every instruction answers a next state -/

/-- An instruction has one answer. -/
theorem exec_unique {i : Instr} {s t u : State} (hu : exec i s = .next u) (ht : exec i s = .next t) : t = u :=
  Host.Outcome.next.inj (ht.symm.trans hu)

theorem exec_answers (i : Instr) (s : State) : ∃ t, exec i s = .next t := by
  cases i with
  | idiv => obtain ⟨_, _, _, h, _⟩ := exec_idiv_shape s; exact ⟨_, h⟩
  | fdiv => obtain ⟨_, _, _, h, _⟩ := exec_fdiv_shape s; exact ⟨_, h⟩
  | daa => obtain ⟨_, h, _⟩ := exec_daa_shape s; exact ⟨_, h⟩
  | _ => exact ⟨_, rfl⟩

theorem step_answers (s : State) : ∃ t, step s = .next t := by
  unfold step
  split
  · exact ⟨_, rfl⟩
  · rcases s.asked.instruction_cases with ⟨d, _, h⟩ | ⟨e, _, h⟩
    · rw [h]
      exact exec_answers _ _
    · exact ⟨_, h⟩

/-- Settles O10: the boundary answers a state or an instruction is run, and every meaning and the trap answer a next
state. -/
theorem everyStepAnswersANextState : Obligations.EveryStepAnswersANextState := by
  unfold Obligations.EveryStepAnswersANextState
  exact step_answers

/-! ### What every instruction keeps -/

/-- `t` has the parameters, the oracle and the draw counter of `s`, and its memory is canonical if that of `s` is. -/
structure KeepsPlatform (s t : State) : Prop where
  config : t.config = s.config
  oracle : t.oracle = s.oracle
  draws : t.draws = s.draws
  memory : s.mem.wf = true → t.mem.wf = true

/-- And the masks, the run state and the hold-off bit of `s`. -/
structure KeepsControl (s t : State) : Prop extends KeepsPlatform s t where
  masks : t.ccr.masks = s.ccr.masks
  run : t.run = s.run
  iDelay : t.iDelay = s.iDelay

theorem KeepsPlatform.trans {s t u : State} (h : KeepsPlatform s t) (h' : KeepsPlatform t u) :
    KeepsPlatform s u where
  config := h'.config.trans h.config
  oracle := h'.oracle.trans h.oracle
  draws := h'.draws.trans h.draws
  memory := fun hw => h'.memory (h.memory hw)

namespace KeepsControl

variable {s u : State}

theorem refl (s : State) : KeepsControl s s := ⟨⟨rfl, rfl, rfl, id⟩, rfl, rfl, rfl⟩

/-- Registers may be written freely, and flags that leave the masks alone. -/
theorem registers (h : KeepsControl s u) {a b : Byte} {ix iy sp pc : Word} {f : CCR}
    (hf : f.masks = s.ccr.masks) :
    KeepsControl s { u with a := a, b := b, ix := ix, iy := iy, sp := sp, pc := pc, ccr := f } :=
  ⟨⟨h.config, h.oracle, h.draws, h.memory⟩, hf, h.run, h.iDelay⟩

theorem reading (s : State) (x : Word) : KeepsControl s (s.reading x) :=
  ⟨⟨rfl, rfl, rfl, fun h => State.reading_wf h x⟩, rfl, rfl, rfl⟩

theorem after8 (s : State) (o : Src8) : KeepsControl s (s.after8 o) :=
  ⟨⟨by simp, by simp, by simp, fun h => State.after8_wf h o⟩, by simp, by simp, by simp⟩

theorem after16 (s : State) (o : Src16) : KeepsControl s (s.after16 o) :=
  ⟨⟨by simp, by simp, by simp, fun h => State.after16_wf h o⟩, by simp, by simp, by simp⟩

theorem writeByte (s : State) (x : Word) (v : Byte) : KeepsControl s (s.writeByte x v) :=
  ⟨⟨by simp, by simp, by simp, fun h => State.writeByte_wf h x v⟩, by simp, by simp, by simp⟩

theorem writeWord (s : State) (x v : Word) : KeepsControl s (s.writeWord x v) :=
  ⟨⟨by simp, by simp, by simp, fun h => State.writeWord_wf h x v⟩, by simp, by simp, by simp⟩

theorem push8 (s : State) (v : Byte) : KeepsControl s (s.push8 v) :=
  ⟨⟨by simp, by simp, by simp, fun h => State.push8_wf h v⟩, by simp, by simp, by simp⟩

theorem push16 (s : State) (v : Word) : KeepsControl s (s.push16 v) :=
  ⟨⟨by simp, by simp, by simp, fun h => State.push16_wf h v⟩, by simp, by simp, by simp⟩

theorem drop8 (s : State) : KeepsControl s s.drop8 :=
  ⟨⟨by simp, by simp, by simp, State.drop8_wf⟩, by simp, by simp, by simp⟩

theorem drop16 (s : State) : KeepsControl s s.drop16 :=
  ⟨⟨by simp, by simp, by simp, State.drop16_wf⟩, by simp, by simp, by simp⟩

theorem branchIf (h : KeepsControl s u) (hm : u.ccr.masks = s.ccr.masks) (c : Bool) (rr : Byte) :
    KeepsControl s (u.branchIf c rr) := by
  rw [State.branchIf_eq]
  exact h.registers hm

theorem modifyByte (s : State) (m : Mem) {op : Byte → CCR → Byte × CCR}
    (hop : ∀ x, (op x s.ccr).2.masks = s.ccr.masks) : KeepsControl s (s.modifyByte m op) := by
  rw [State.modifyByte_frame]
  exact ⟨⟨rfl, rfl, rfl, fun h => State.modifyByte_wf h m op⟩, hop _, rfl, rfl⟩

end KeepsControl

/-- The eight instructions that can write a mask, the run state or the hold-off bit. -/
def isSystem : Instr → Bool
  | .cli | .sei | .tap | .rti | .swi | .wai | .stop | .test => true
  | _ => false

/-- Every other instruction keeps them, whatever its operands. -/
theorem exec_keepsControl {i : Instr} {s t : State} (h : exec i s = .next t) (hi : isSystem i = false) :
    KeepsControl s t := by
  cases i with
  | cli | sei | tap | rti | swi | wai | stop | test => cases hi
  | adca o | adcb o | adda o | addb o | anda o | andb o | bita o | bitb o | cmpa o | cmpb o | eora o
  | eorb o | ldaa o | ldab o | oraa o | orab o | sbca o | sbcb o | suba o | subb o =>
    cases h
    exact (KeepsControl.after8 s o).registers rfl
  | addd o | cpd o | cpx o | cpy o | ldd o | lds o | ldx o | ldy o | subd o =>
    cases h
    exact (KeepsControl.after16 s o).registers rfl
  | asl m | asr m | bclr m mm | bset m mm | com m | dec m | inc m | lsl m | lsr m | neg m | rol m | ror m =>
    cases h
    exact KeepsControl.modifyByte s m fun _ => rfl
  | clr m | staa m | stab m =>
    cases h
    exact (KeepsControl.writeByte s _ _).registers rfl
  | std m | sts m | stx m | sty m =>
    cases h
    exact (KeepsControl.writeWord s _ _).registers rfl
  | tst m =>
    cases h
    exact (KeepsControl.reading s _).registers rfl
  | brclr m mm rr | brset m mm rr =>
    cases h
    exact (KeepsControl.reading s _).branchIf rfl _ rr
  | bcc rr | bcs rr | beq rr | bge rr | bgt rr | bhi rr | bhs rr | ble rr | blo rr | bls rr | blt rr
  | bmi rr | bne rr | bpl rr | bra rr | bvc rr | bvs rr =>
    cases h
    exact (KeepsControl.refl s).branchIf rfl _ rr
  | psha | pshb =>
    cases h
    exact KeepsControl.push8 s _
  | pshx | pshy =>
    cases h
    exact KeepsControl.push16 s _
  | bsr _ | jsr _ =>
    cases h
    exact (KeepsControl.push16 s _).registers (KeepsControl.push16 s _).masks
  | pula | pulb =>
    cases h
    exact (KeepsControl.drop8 s).registers rfl
  | pulx | puly | rts =>
    cases h
    exact (KeepsControl.drop16 s).registers (KeepsControl.drop16 s).masks
  | idiv =>
    obtain ⟨_, _, _, hx, hm, _⟩ := exec_idiv_shape s
    obtain rfl := exec_unique hx h
    exact (KeepsControl.refl s).registers hm
  | fdiv =>
    obtain ⟨_, _, _, hx, hm, _⟩ := exec_fdiv_shape s
    obtain rfl := exec_unique hx h
    exact (KeepsControl.refl s).registers hm
  | daa =>
    obtain ⟨_, hx, hm, _⟩ := exec_daa_shape s
    obtain rfl := exec_unique hx h
    exact (KeepsControl.refl s).registers hm
  | _ =>
    cases h
    exact (KeepsControl.refl s).registers rfl

/-! ### The half carry (R30) -/

theorem State.branchIf_ccr (s : State) (c : Bool) (rr : Byte) : (s.branchIf c rr).ccr = s.ccr := by
  rw [State.branchIf_eq]

theorem State.branchIf_sp (s : State) (c : Bool) (rr : Byte) : (s.branchIf c rr).sp = s.sp := by
  rw [State.branchIf_eq]

/-- An entry keeps what it stacks but I, and X for an xirq (R506). -/
@[simp] theorem State.enter_ccr (s : State) (v p : Word) (setX stack : Bool) :
    (s.enter v p setX stack).ccr = { s.ccr with i := true, x := setX || s.ccr.x } := by
  cases stack
  · rfl
  · simp [State.enter_stack, State.vectorTo]

/-- The trap is an entry through VEC_ILLOP with one of two return addresses (R507). -/
theorem State.illegalOpcode_eq_enter (s : State) (p : Word) (k : Nat) :
    ∃ q, s.illegalOpcode p k = s.enter s.config.vecIllop q false true := by
  unfold State.illegalOpcode
  split <;> exact ⟨_, rfl⟩

@[simp] theorem State.illegalOpcode_ccr (s : State) (p : Word) (k : Nat) :
    (s.illegalOpcode p k).ccr = { s.ccr with i := true } := by
  obtain ⟨q, hq⟩ := s.illegalOpcode_eq_enter p k
  rw [hq, State.enter_ccr, Bool.false_or]

/-- Settles O16, by the shapes of the results: the flags of a shift, a difference, a load and so on are the old ones but
for N, Z, V and C. -/
theorem noOtherInstructionChangesTheHalfCarry : Obligations.NoOtherInstructionChangesTheHalfCarry := by
  unfold Obligations.NoOtherInstructionChangesTheHalfCarry
  intro i s t h
  cases i with
  | aba | adca _ | adcb _ | adda _ | addb _ | tap | rti => trivial
  | bcc _ | bcs _ | beq _ | bge _ | bgt _ | bhi _ | bhs _ | ble _ | blo _ | bls _ | blt _ | bmi _ | bne _
  | bpl _ | bra _ | bvc _ | bvs _ | brclr _ _ _ | brset _ _ _ =>
    cases h
    exact congrArg CCR.h (State.branchIf_ccr _ _ _)
  | psha | pshb | pshx | pshy | bsr _ | jsr _ | pula | pulb | pulx | puly | rts =>
    cases h
    simp
  | wai =>
    obtain rfl := exec_unique (exec_wai s) h
    simp
  | swi =>
    obtain rfl := exec_unique (exec_swi s) h
    simp
  | stop =>
    obtain rfl := exec_unique (exec_stop s) h
    show CCR.h (State.ccr (ite _ _ _)) = _
    split <;> rfl
  | test =>
    obtain rfl := exec_unique (exec_test s) h
    show CCR.h (State.ccr (ite _ _ _)) = _
    split
    · rfl
    · rw [State.illegalOpcode_ccr]
  | idiv =>
    obtain ⟨_, _, _, hx, _, hh⟩ := exec_idiv_shape s
    obtain rfl := exec_unique hx h
    exact hh
  | fdiv =>
    obtain ⟨_, _, _, hx, _, hh⟩ := exec_fdiv_shape s
    obtain rfl := exec_unique hx h
    exact hh
  | daa =>
    obtain ⟨_, hx, _, hh⟩ := exec_daa_shape s
    obtain rfl := exec_unique hx h
    exact hh
  | _ =>
    cases h
    rfl

/-! ### The stack pointer (R25) -/

/-- Settles O18, by the shapes of the results: an operand read, a write to a cell and a branch keep SP. -/
theorem onlyStackInstructionsMoveTheStackPointer : Obligations.OnlyStackInstructionsMoveTheStackPointer := by
  unfold Obligations.OnlyStackInstructionsMoveTheStackPointer
  intro i s t h
  cases i with
  | des | ins | lds _ | txs | tys | psha | pshb | pshx | pshy | pula | pulb | pulx | puly | bsr _ | jsr _
  | rts | rti | swi | wai | test => trivial
  | adca o | adcb o | adda o | addb o | anda o | andb o | bita o | bitb o | cmpa o | cmpb o | eora o
  | eorb o | ldaa o | ldab o | oraa o | orab o | sbca o | sbcb o | suba o | subb o =>
    cases h
    exact State.after8_sp s o
  | addd o | cpd o | cpx o | cpy o | ldd o | ldx o | ldy o | subd o =>
    cases h
    exact State.after16_sp s o
  | asl m | asr m | bclr m mm | bset m mm | com m | dec m | inc m | lsl m | lsr m | neg m | rol m | ror m
  | clr m | staa m | stab m =>
    cases h
    exact State.writeByte_sp _ _ _
  | std m | sts m | stx m | sty m =>
    cases h
    exact State.writeWord_sp _ _ _
  | bcc _ | bcs _ | beq _ | bge _ | bgt _ | bhi _ | bhs _ | ble _ | blo _ | bls _ | blt _ | bmi _ | bne _
  | bpl _ | bra _ | bvc _ | bvs _ | brclr _ _ _ | brset _ _ _ =>
    cases h
    exact State.branchIf_sp _ _ _
  | stop =>
    obtain rfl := exec_unique (exec_stop s) h
    show State.sp (ite _ _ _) = _
    split <;> rfl
  | idiv =>
    obtain ⟨_, _, _, hx, _⟩ := exec_idiv_shape s
    obtain rfl := exec_unique hx h
    rfl
  | fdiv =>
    obtain ⟨_, _, _, hx, _⟩ := exec_fdiv_shape s
    obtain rfl := exec_unique hx h
    rfl
  | daa =>
    obtain ⟨_, hx, _⟩ := exec_daa_shape s
    obtain rfl := exec_unique hx h
    rfl
  | _ =>
    cases h
    rfl

/-! ### Memory and the devices (R53) -/

/-- `t` has the cells and the devices of `s`. -/
def SameCells (s t : State) : Prop := t.mem = s.mem ∧ t.devices = s.devices

theorem SameCells.of_eq {s t : State} (h : t = s) : SameCells s t := h ▸ ⟨rfl, rfl⟩

theorem State.branchIf_sameCells (s : State) (c : Bool) (rr : Byte) : SameCells s (s.branchIf c rr) := by
  rw [State.branchIf_eq]
  exact ⟨rfl, rfl⟩

section
variable {s : State} (hp : ∀ a, s.IsPlain a)
include hp

theorem State.reading_sameCells (a : Word) : SameCells s (s.reading a) :=
  SameCells.of_eq (State.reading_plain (hp a))

theorem State.after8_sameCells (o : Src8) : SameCells s (s.after8 o) :=
  SameCells.of_eq (State.after8_plain hp o)

theorem State.after16_sameCells (o : Src16) : SameCells s (s.after16 o) :=
  SameCells.of_eq (State.after16_plain hp o)

theorem State.drop8_sameCells : SameCells s s.drop8 := State.reading_sameCells hp (s.sp + 1)

theorem State.drop16_sameCells : SameCells s s.drop16 := by
  rw [State.drop16_eq, State.readingWord_plain (hp _) (hp _)]
  exact ⟨rfl, rfl⟩

theorem State.returnFromInterrupt_sameCells : SameCells s s.returnFromInterrupt := by
  rw [State.returnFromInterrupt_eq, State.readings_plain fun a _ => hp a]
  exact ⟨rfl, rfl⟩

end

/-- Settles O17, by the shapes of the results: on a platform without devices reading an operand or pulling changes no
cell, and what neither reads nor writes keeps the cells on every platform. -/
theorem onlyStoringInstructionsChangeMemory : Obligations.OnlyStoringInstructionsChangeMemory := by
  unfold Obligations.OnlyStoringInstructionsChangeMemory
  intro i s t h
  cases i with
  | staa _ | stab _ | std _ | sts _ | stx _ | sty _ | clr _ | asl _ | lsl _ | asr _ | lsr _ | rol _ | ror _
  | com _ | dec _ | inc _ | neg _ | bclr _ _ | bset _ _ | psha | pshb | pshx | pshy | bsr _ | jsr _ | swi
  | wai | test => trivial
  | adca o | adcb o | adda o | addb o | anda o | andb o | bita o | bitb o | cmpa o | cmpb o | eora o
  | eorb o | ldaa o | ldab o | oraa o | orab o | sbca o | sbcb o | suba o | subb o =>
    cases h
    exact fun hp => State.after8_sameCells hp o
  | addd o | cpd o | cpx o | cpy o | ldd o | lds o | ldx o | ldy o | subd o =>
    cases h
    exact fun hp => State.after16_sameCells hp o
  | tst m =>
    cases h
    exact fun hp => State.reading_sameCells hp _
  | brclr m mm rr | brset m mm rr =>
    cases h
    intro hp
    simp only [State.reading_plain (hp _)]
    exact State.branchIf_sameCells s _ rr
  | pula | pulb =>
    cases h
    exact State.drop8_sameCells
  | pulx | puly | rts =>
    cases h
    exact State.drop16_sameCells
  | rti =>
    obtain rfl := exec_unique (exec_rti s) h
    exact State.returnFromInterrupt_sameCells
  | bcc rr | bcs rr | beq rr | bge rr | bgt rr | bhi rr | bhs rr | ble rr | blo rr | bls rr | blt rr
  | bmi rr | bne rr | bpl rr | bra rr | bvc rr | bvs rr =>
    cases h
    exact State.branchIf_sameCells s _ rr
  | stop =>
    obtain rfl := exec_unique (exec_stop s) h
    show State.mem (ite _ _ _) = _ ∧ State.devices (ite _ _ _) = _
    split <;> exact ⟨rfl, rfl⟩
  | idiv =>
    obtain ⟨_, _, _, hx, _⟩ := exec_idiv_shape s
    obtain rfl := exec_unique hx h
    exact ⟨rfl, rfl⟩
  | fdiv =>
    obtain ⟨_, _, _, hx, _⟩ := exec_fdiv_shape s
    obtain rfl := exec_unique hx h
    exact ⟨rfl, rfl⟩
  | daa =>
    obtain ⟨_, hx, _⟩ := exec_daa_shape s
    obtain rfl := exec_unique hx h
    exact ⟨rfl, rfl⟩
  | _ =>
    cases h
    exact ⟨rfl, rfl⟩

end Sys2Proof.Machine
end

section
/-! The eight system instructions, an entry, the trap and reset: what they keep and what they write. With the rest of
the instructions, what any instruction and any step can do to the parameters, the masks and the invariant; from this
O11 to O15 and O19. -/

namespace Sys2Proof.Machine

/-! ### An entry, the trap, the return and reset -/

theorem KeepsPlatform.refl (s : State) : KeepsPlatform s s := (KeepsControl.refl s).toKeepsPlatform

theorem KeepsPlatform.setRun {s u : State} (h : KeepsPlatform s u) (v : RunState) :
    KeepsPlatform s (u.setRun v) := ⟨h.config, h.oracle, h.draws, h.memory⟩

theorem State.stackFrame_keepsControl (s : State) (p : Word) : KeepsControl s (s.stackFrame p) :=
  ⟨⟨by simp, by simp, by simp, fun h => State.stackFrame_wf h p⟩, by simp, by simp, by simp⟩

@[simp] theorem State.enter_run (s : State) (v p : Word) (setX stack : Bool) :
    (s.enter v p setX stack).run = .running := by
  cases stack <;> rfl

@[simp] theorem State.enter_iDelay (s : State) (v p : Word) (setX stack : Bool) :
    (s.enter v p setX stack).iDelay = false := by
  cases stack <;> rfl

theorem State.enter_keepsPlatform (s : State) (v p : Word) (setX stack : Bool) :
    KeepsPlatform s (s.enter v p setX stack) where
  config := by cases stack <;> simp [State.enter, State.vectorTo]
  oracle := by cases stack <;> simp [State.enter, State.vectorTo]
  draws := by cases stack <;> simp [State.enter, State.vectorTo]
  memory := fun h => State.enter_wf h v p setX stack

theorem State.illegalOpcode_keepsPlatform (s : State) (p : Word) (k : Nat) :
    KeepsPlatform s (s.illegalOpcode p k) := by
  obtain ⟨q, hq⟩ := s.illegalOpcode_eq_enter p k
  rw [hq]
  exact s.enter_keepsPlatform _ q false true

theorem State.returnFromInterrupt_ccr (s : State) :
    s.returnFromInterrupt.ccr = s.ccr.write (s.pulled 1) := by
  rw [State.returnFromInterrupt_eq]

theorem State.returnFromInterrupt_run (s : State) : s.returnFromInterrupt.run = s.run := by
  rw [State.returnFromInterrupt_eq]
  simp

theorem State.returnFromInterrupt_iDelay (s : State) : s.returnFromInterrupt.iDelay = s.iDelay := by
  rw [State.returnFromInterrupt_eq]
  simp

theorem State.returnFromInterrupt_keepsPlatform (s : State) : KeepsPlatform s s.returnFromInterrupt where
  config := by rw [State.returnFromInterrupt_eq]; simp
  oracle := by rw [State.returnFromInterrupt_eq]; simp
  draws := by rw [State.returnFromInterrupt_eq]; simp
  memory := State.returnFromInterrupt_wf

theorem State.takeReset_keepsPlatform (s : State) (v : Word) : KeepsPlatform s (s.takeReset v) :=
  ⟨rfl, rfl, rfl, fun h => State.readingWord_wf h v⟩

theorem State.fetched_keepsControl (s : State) (k : Nat) : KeepsControl s (s.fetched k) :=
  ⟨⟨by simp, by simp, by simp, fun h => State.fetched_wf h k⟩, by simp, by simp, by simp⟩

theorem State.advance_keepsPlatform (s : State) (k : Nat) : KeepsPlatform s (s.advance k) :=
  ⟨rfl, rfl, rfl, id⟩

/-! ### CLI and TAP -/

/-- CLI (R263): the hold-off bit is set when I falls and I_CLEAR_DELAY is true (R514). -/
theorem exec_cli (s : State) : exec .cli s = .next { s with
    ccr := { s.ccr with i := false }, iDelay := s.iDelay || (s.ccr.i && s.config.iClearDelay) } := rfl

/-- TAP (R392). -/
theorem exec_tap (s : State) : exec .tap s = .next { s with
    ccr := s.ccr.write s.a
    iDelay := s.iDelay || (s.ccr.i && !s.a.getLsbD 4 && s.config.iClearDelay) } := rfl

/-! ### What every instruction keeps -/

theorem exec_keepsPlatform {i : Instr} {s t : State} (h : exec i s = .next t) : KeepsPlatform s t := by
  cases hi : isSystem i with
  | false => exact (exec_keepsControl h hi).toKeepsPlatform
  | true =>
    cases i with
    | cli =>
      obtain rfl := exec_unique (exec_cli s) h
      exact ⟨rfl, rfl, rfl, id⟩
    | sei =>
      obtain rfl := exec_unique (exec_sei s) h
      exact ⟨rfl, rfl, rfl, id⟩
    | tap =>
      obtain rfl := exec_unique (exec_tap s) h
      exact ⟨rfl, rfl, rfl, id⟩
    | rti =>
      obtain rfl := exec_unique (exec_rti s) h
      exact s.returnFromInterrupt_keepsPlatform
    | swi =>
      obtain rfl := exec_unique (exec_swi s) h
      exact s.enter_keepsPlatform _ _ _ _
    | wai =>
      obtain rfl := exec_unique (exec_wai s) h
      exact (s.stackFrame_keepsControl s.pc).toKeepsPlatform.setRun .waiting
    | stop =>
      obtain rfl := exec_unique (exec_stop s) h
      split <;> exact ⟨rfl, rfl, rfl, id⟩
    | test =>
      obtain rfl := exec_unique (exec_test s) h
      split
      · exact ⟨rfl, rfl, rfl, id⟩
      · exact s.illegalOpcode_keepsPlatform _ _
    | _ => cases hi

/-! ### The masks -/

/-- How the masks of `t` may differ from those of `s` after an instruction: X only falls, S differs only if
`writesS`, I falls only if `clearsI`. -/
structure MasksStep (s t : State) (writesS clearsI : Prop) : Prop where
  xFalls : t.ccr.x = true → s.ccr.x = true
  sWritten : t.ccr.s ≠ s.ccr.s → writesS
  iCleared : s.ccr.i = true → t.ccr.i = false → clearsI

theorem MasksStep.of_masks {s t : State} (h : t.ccr.masks = s.ccr.masks) (P Q : Prop) : MasksStep s t P Q := by
  simp only [CCR.masks, Prod.mk.injEq] at h
  obtain ⟨hs, hx, hi⟩ := h
  exact ⟨fun h => hx ▸ h, fun h => absurd hs h, fun h h' => by simp [hi, h] at h'⟩

/-- A step in which S and X stay and I is set. -/
theorem MasksStep.of_setI {s t : State} (hs : t.ccr.s = s.ccr.s) (hx : t.ccr.x = s.ccr.x)
    (hi : t.ccr.i = true) (P Q : Prop) : MasksStep s t P Q :=
  ⟨fun h => hx ▸ h, fun h => absurd hs h, fun _ h => by simp [hi] at h⟩

/-- TAP and RTI write the CCR by R140, where X can only fall. -/
theorem MasksStep.of_write {s t : State} {v : Byte} (h : t.ccr = s.ccr.write v) {P Q : Prop} (hP : P) (hQ : Q) :
    MasksStep s t P Q :=
  ⟨fun hx => by rw [h] at hx; exact (Bool.and_eq_true_iff.mp hx).1, fun _ => hP, fun _ _ => hQ⟩

theorem exec_masksStep {i : Instr} {s t : State} (h : exec i s = .next t) :
    MasksStep s t (i = .tap ∨ i = .rti) (i = .cli ∨ i = .tap ∨ i = .rti) := by
  cases hi : isSystem i with
  | false => exact .of_masks (exec_keepsControl h hi).masks _ _
  | true =>
    cases i with
    | cli =>
      obtain rfl := exec_unique (exec_cli s) h
      exact ⟨id, fun h => absurd rfl h, fun _ _ => .inl rfl⟩
    | sei =>
      obtain rfl := exec_unique (exec_sei s) h
      exact ⟨id, fun h => absurd rfl h, fun _ h => Bool.noConfusion h⟩
    | tap =>
      obtain rfl := exec_unique (exec_tap s) h
      exact .of_write rfl (.inl rfl) (.inr (.inl rfl))
    | rti =>
      obtain rfl := exec_unique (exec_rti s) h
      exact .of_write s.returnFromInterrupt_ccr (.inr rfl) (.inr (.inr rfl))
    | swi =>
      obtain rfl := exec_unique (exec_swi s) h
      exact .of_setI (by simp) (by simp) (by simp) _ _
    | wai =>
      obtain rfl := exec_unique (exec_wai s) h
      exact .of_masks (by simp) _ _
    | stop =>
      obtain rfl := exec_unique (exec_stop s) h
      exact .of_masks (by split <;> rfl) _ _
    | test =>
      obtain rfl := exec_unique (exec_test s) h
      split
      · exact .of_masks (s := s) (t := s.setRun .testLock) rfl _ _
      · exact .of_setI (by simp) (by simp) (by simp) _ _
    | _ => cases hi

/-! ### The invariant -/

/-- With the hold-off bit clear, a running or waiting CPU meets the invariant as soon as memory is canonical. -/
theorem State.Inv.of_going {t : State} (hw : t.mem.wf = true) (hd : t.iDelay = false)
    (hr : t.run = .running ∨ t.run = .waiting) : t.Inv where
  memory := hw
  delay := fun h => by simp [hd] at h
  stopped := fun h => by simp [h] at hr
  locked := fun h => by simp [h] at hr

theorem State.enter_inv {s : State} (hw : s.mem.wf = true) (v p : Word) (setX stack : Bool) :
    (s.enter v p setX stack).Inv :=
  .of_going (State.enter_wf hw v p setX stack) (by simp) (.inl (by simp))

theorem State.illegalOpcode_inv {s : State} (hw : s.mem.wf = true) (p : Word) (k : Nat) :
    (s.illegalOpcode p k).Inv := by
  obtain ⟨q, hq⟩ := s.illegalOpcode_eq_enter p k
  rw [hq]
  exact State.enter_inv hw _ q false true

/-- The devices act and the oracle is asked: the invariant speaks of nothing that this changes but memory. -/
theorem State.asked_inv {s : State} (h : s.Inv) : s.asked.Inv :=
  ⟨State.asked_wf h.memory, h.delay, h.stopped, h.locked⟩

/-- An instruction executed while running with the hold-off bit cleared: CLI and TAP set the bit only as they clear I
(R514), STOP stops only with S clear (R383), TEST locks only in a test mode (R394). -/
theorem exec_inv {i : Instr} {s t : State} (hw : s.mem.wf = true) (hd : s.iDelay = false)
    (hr : s.run = .running) (h : exec i s = .next t) : t.Inv := by
  cases hi : isSystem i with
  | false =>
    have hk := exec_keepsControl h hi
    exact .of_going (hk.memory hw) (hk.iDelay.trans hd) (.inl (hk.run.trans hr))
  | true =>
    cases i with
    | cli =>
      obtain rfl := exec_unique (exec_cli s) h
      exact ⟨hw, fun hb => ⟨rfl, hr, by simp_all⟩, fun hs => by simp_all, fun hl => by simp_all⟩
    | sei =>
      obtain rfl := exec_unique (exec_sei s) h
      exact .of_going hw hd (.inl hr)
    | tap =>
      obtain rfl := exec_unique (exec_tap s) h
      refine ⟨hw, fun hb => ?_, fun hs => by simp_all, fun hl => by simp_all⟩
      simp only [hd, Bool.false_or, Bool.and_eq_true, Bool.not_eq_true'] at hb
      obtain ⟨⟨_, hbit⟩, hcfg⟩ := hb
      exact ⟨hbit, hr, hcfg⟩
    | rti =>
      obtain rfl := exec_unique (exec_rti s) h
      exact .of_going (State.returnFromInterrupt_wf hw) (s.returnFromInterrupt_iDelay.trans hd)
        (.inl (s.returnFromInterrupt_run.trans hr))
    | swi =>
      obtain rfl := exec_unique (exec_swi s) h
      exact State.enter_inv hw _ _ _ _
    | wai =>
      obtain rfl := exec_unique (exec_wai s) h
      exact .of_going (((s.stackFrame_keepsControl s.pc).toKeepsPlatform.setRun .waiting).memory hw)
        (by simp [hd]) (.inr rfl)
    | stop =>
      obtain rfl := exec_unique (exec_stop s) h
      split
      · exact .of_going hw hd (.inl hr)
      · next hs => exact ⟨hw, fun hb => by simp_all, fun _ => by simpa using hs, fun hl => by cases hl⟩
    | test =>
      obtain rfl := exec_unique (exec_test s) h
      split
      · next ht => exact ⟨hw, fun hb => by simp_all, fun hs => (by cases hs), fun _ => ht⟩
      · exact State.illegalOpcode_inv hw _ _
    | _ => cases hi

theorem State.instruction_inv {s t : State} (hw : s.mem.wf = true) (hr : s.run = .running)
    (h : s.instruction = .next t) : t.Inv := by
  rcases s.instruction_cases with ⟨d, _, hd⟩ | ⟨e, _, he⟩
  · exact exec_inv (s := (s.fetched d.length).advance d.length) (State.fetched_wf hw _) rfl (by simpa using hr)
      (hd.symm.trans h)
  · cases Host.Outcome.next.inj (h.symm.trans he)
    exact State.illegalOpcode_inv (State.fetched_wf hw _) _ _

theorem State.stoppedBoundary_inv {s : State} (h : s.Inv) (hr : s.run = .stopped) (reqs : List Request) :
    (s.stoppedBoundary reqs).Inv := by
  have hd : s.iDelay = false := by
    cases hb : s.iDelay with
    | false => rfl
    | true => simpa [hr] using (h.delay hb).2.1
  rcases s.stoppedBoundary_cases reqs with ⟨_, _, e⟩ | ⟨_, _, e⟩ | ⟨_, _, _, e⟩ | ⟨_, _, e⟩ <;> rw [e]
  · exact .of_going h.memory hd (.inl rfl)
  · exact State.enter_inv h.memory _ _ _ _
  · exact State.enter_inv h.memory _ _ _ _
  · exact h

theorem State.waitingBoundary_inv {s : State} (h : s.Inv) (reqs : List Request) :
    (s.waitingBoundary reqs).Inv := by
  rcases s.waitingBoundary_cases reqs with ⟨_, _, e⟩ | ⟨_, e⟩ <;> rw [e]
  · exact State.enter_inv h.memory _ _ _ _
  · exact h

theorem step_inv {s t : State} (hs : s.Inv) (h : step s = .next t) : t.Inv := by
  have ha := State.asked_inv hs
  rcases step_cases h with ⟨r, _, _, rfl⟩ | ⟨_, ⟨_, rfl⟩ | ⟨hr, rfl⟩ | ⟨_, rfl⟩ | ⟨_, r, _, rfl⟩ | ⟨hq, hi⟩⟩
  · exact .of_going ((s.asked.takeReset_keepsPlatform r.vector).memory ha.memory) rfl (.inl rfl)
  · exact ha
  · exact State.stoppedBoundary_inv ha hr _
  · exact State.waitingBoundary_inv ha _
  · exact State.enter_inv ha.memory _ _ _ _
  · exact State.instruction_inv ha.memory hq.2.1 hi

/-- Settles O12, by the ways a step can go. -/
theorem everyStepKeepsTheInvariant : Obligations.EveryStepKeepsTheInvariant := by
  unfold Obligations.EveryStepKeepsTheInvariant
  exact fun _ _ hs h => step_inv hs h

/-- Settles O11: the reset state is running with the hold-off bit clear, and its memory is empty. -/
theorem resetMeetsTheInvariant : Obligations.ResetMeetsTheInvariant := by
  unfold Obligations.ResetMeetsTheInvariant
  exact .of_going State.reset_memory_wf rfl (.inl rfl)

/-- Settles O13, field by field. -/
theorem resetStateIsAsTheSpecSays : Obligations.ResetStateIsAsTheSpecSays := by
  unfold Obligations.ResetStateIsAsTheSpecSays
  exact ⟨rfl, rfl, rfl, rfl, rfl, rfl, rfl, rfl⟩

/-! ### What a step does to the masks -/

theorem State.Quiet.allowed_none {s : State} (h : s.Quiet) : s.allowed s.requests = none := by
  obtain ⟨_, _, hx, hi⟩ := h
  refine State.allowed_none.mpr ⟨hx.imp_right ?_, hi.imp_right (Or.imp_right ?_)⟩
  · exact fun hn q hq hc => hn ⟨q, hq, hc⟩
  · exact fun hn q hq hc => hn ⟨q, hq, hc⟩

/-- What a step can do to the masks: a reset request sets all three; an xirq sets X and I and keeps S; an executed
instruction does what `exec_masksStep` says; and any other step changes none of them but I, which may rise. -/
inductive MasksAfter (s t : State) : Prop where
  | reset (h : s.Pending .reset) (hi : t.ccr.i = true)
  | xirq (h : s.Pending .xirq) (hq : ¬ s.Quiet) (hs : t.ccr.s = s.ccr.s) (hi : t.ccr.i = true)
  | instruction (hq : s.Quiet) (d : Decoded) (hd : decode s.asked.fetchBytes = .ok d)
      (h : MasksStep s t (d.instr = .tap ∨ d.instr = .rti) (d.instr = .cli ∨ d.instr = .tap ∨ d.instr = .rti))
  | other (h : MasksStep s t False False)

theorem MasksAfter.of_ccr {s t : State} (h : t.ccr = s.ccr) : MasksAfter s t :=
  .other (.of_masks (by rw [h]) _ _)

theorem MasksAfter.of_enter {s u : State} (hu : u.ccr = s.ccr) {setX : Bool}
    (hx : setX = true → s.Pending .xirq ∧ ¬ s.Quiet) (v p : Word) (stack : Bool) :
    MasksAfter s (u.enter v p setX stack) := by
  cases setX with
  | true => exact .xirq (hx rfl).1 (hx rfl).2 (by simp [hu]) (by simp)
  | false => exact .other (.of_setI (by simp [hu]) (by simp [hu]) (by simp) _ _)

theorem State.allowed_xirq {s : State} {r : Request} (h : s.allowed s.requests = some r)
    (hx : (r.cls == .xirq) = true) : s.Pending .xirq ∧ ¬ s.Quiet := by
  have hc : r.cls = .xirq := by simpa using hx
  refine ⟨?_, fun hq => by simp [hq.allowed_none] at h⟩
  rcases State.allowed_some h with ⟨hm, _⟩ | ⟨_, hm, _⟩
  · exact ⟨r, hm, hc⟩
  · simp [hc] at hm

theorem State.stoppedBoundary_masksAfter {s : State} (hr : s.run = .stopped) :
    MasksAfter s (s.asked.stoppedBoundary s.requests) := by
  have hq : ¬ s.Quiet := fun hq => by simpa [hr] using hq.2.1
  rcases s.asked.stoppedBoundary_cases s.requests with ⟨_, _, e⟩ | ⟨hx, _, e⟩ | ⟨_, _, _, e⟩ | ⟨_, _, e⟩ <;> rw [e]
  · exact .of_ccr rfl
  · exact .of_enter (s := s) (u := s.asked) rfl (fun _ => ⟨hx, hq⟩) _ _ _
  · exact .of_enter (s := s) (u := s.asked) rfl (fun h => by cases h) _ _ _
  · exact .of_ccr rfl

theorem State.waitingBoundary_masksAfter (s : State) : MasksAfter s (s.asked.waitingBoundary s.requests) := by
  rcases s.asked.waitingBoundary_cases s.requests with ⟨r, ha, e⟩ | ⟨_, e⟩ <;> rw [e]
  · exact .of_enter (s := s) (u := s.asked) rfl (State.allowed_xirq ha) _ _ _
  · exact .of_ccr rfl

theorem State.instruction_masksAfter {s t : State} (hq : s.Quiet) (h : s.asked.instruction = .next t) :
    MasksAfter s t := by
  rcases s.asked.instruction_cases with ⟨d, hd, e⟩ | ⟨e, _, he⟩
  · obtain ⟨hx, hs, hi⟩ := exec_masksStep (e.symm.trans h)
    exact .instruction hq d hd ⟨by simpa using hx, by simpa using hs, by simpa using hi⟩
  · cases Host.Outcome.next.inj (h.symm.trans he)
    exact .other (.of_setI (by simp) (by simp) (by simp) _ _)

theorem step_masksAfter {s t : State} (h : step s = .next t) : MasksAfter s t := by
  rcases step_cases h with ⟨r, hr, hc, rfl⟩ | ⟨_, ⟨_, rfl⟩ | ⟨hr, rfl⟩ | ⟨_, rfl⟩ | ⟨_, r, ha, rfl⟩ | ⟨hq, hi⟩⟩
  · exact .reset ⟨r, hr, hc⟩ rfl
  · exact .of_ccr rfl
  · exact State.stoppedBoundary_masksAfter hr
  · exact s.waitingBoundary_masksAfter
  · exact .of_enter (s := s) (u := s.asked) rfl (State.allowed_xirq ha) _ _ _
  · exact State.instruction_masksAfter hq hi

/-- Settles O14: of the ways a step can go, only a reset request and an xirq let X rise. -/
theorem xIsSetOnlyByXirqOrReset : Obligations.XIsSetOnlyByXirqOrReset := by
  unfold Obligations.XIsSetOnlyByXirqOrReset
  intro s t h hs ht
  cases step_masksAfter h with
  | reset hr => exact .inl hr
  | xirq hx hq => exact .inr ⟨hx, hq⟩
  | instruction _ _ _ hm => simpa [hs] using hm.xFalls ht
  | other hm => simpa [hs] using hm.xFalls ht

/-- Settles O15, by the ways a step can go. -/
theorem masksAreChangedOnlyByTheirWriters : Obligations.MasksAreChangedOnlyByTheirWriters := by
  unfold Obligations.MasksAreChangedOnlyByTheirWriters
  intro s t h
  cases step_masksAfter h with
  | reset hr hi => exact ⟨fun _ => .inl hr, fun _ h0 => by simp [hi] at h0⟩
  | xirq _ _ hs hi => exact ⟨fun h0 => absurd hs h0, fun _ h0 => by simp [hi] at h0⟩
  | instruction hq d hd hm =>
    exact ⟨fun h0 => .inr ⟨hq, d, hd, hm.sWritten h0⟩, fun h1 h0 => ⟨hq, d, hd, hm.iCleared h1 h0⟩⟩
  | other hm => exact ⟨fun h0 => (hm.sWritten h0).elim, fun h1 h0 => (hm.iCleared h1 h0).elim⟩

/-! ### What a step keeps of the platform -/

theorem State.instruction_keepsPlatform {s t : State} (h : s.instruction = .next t) : KeepsPlatform s t := by
  have hf (k : Nat) : KeepsPlatform s (s.fetched k) := (s.fetched_keepsControl k).toKeepsPlatform
  rcases s.instruction_cases with ⟨d, _, e⟩ | ⟨e, _, he⟩
  · exact ((hf _).trans (State.advance_keepsPlatform _ _)).trans (exec_keepsPlatform (e.symm.trans h))
  · cases Host.Outcome.next.inj (h.symm.trans he)
    exact (hf _).trans (State.illegalOpcode_keepsPlatform _ _ _)

theorem State.stoppedBoundary_keepsPlatform (s : State) (reqs : List Request) :
    KeepsPlatform s (s.stoppedBoundary reqs) := by
  rcases s.stoppedBoundary_cases reqs with ⟨_, _, e⟩ | ⟨_, _, e⟩ | ⟨_, _, _, e⟩ | ⟨_, _, e⟩ <;> rw [e]
  · exact (KeepsPlatform.refl s).setRun .running
  · exact s.enter_keepsPlatform _ _ _ _
  · exact s.enter_keepsPlatform _ _ _ _
  · exact .refl s

theorem State.waitingBoundary_keepsPlatform (s : State) (reqs : List Request) :
    KeepsPlatform s (s.waitingBoundary reqs) := by
  rcases s.waitingBoundary_cases reqs with ⟨_, _, e⟩ | ⟨_, e⟩ <;> rw [e]
  · exact s.enter_keepsPlatform _ _ _ _
  · exact .refl s

theorem step_keepsPlatform {s t : State} (h : step s = .next t) : KeepsPlatform s.asked t := by
  rcases step_cases h with ⟨r, _, _, rfl⟩ | ⟨_, ⟨_, rfl⟩ | ⟨_, rfl⟩ | ⟨_, rfl⟩ | ⟨_, r, _, rfl⟩ | ⟨_, hi⟩⟩
  · exact s.asked.takeReset_keepsPlatform _
  · exact .refl _
  · exact s.asked.stoppedBoundary_keepsPlatform _
  · exact s.asked.waitingBoundary_keepsPlatform _
  · exact s.asked.enter_keepsPlatform _ _ _ _
  · exact State.instruction_keepsPlatform hi

/-- In TESTLOCK a step without a reset request ends with the asking (R520). -/
theorem step_testLock {s t : State} (h : step s = .next t) (hr : s.run = .testLock) (hn : ¬ s.Pending .reset) :
    t = s.asked := by
  rcases step_cases h with ⟨r, hm, hc, _⟩ | ⟨_, ⟨_, e⟩ | ⟨h0, _⟩ | ⟨h0, _⟩ | ⟨h0, _⟩ | ⟨hq, _⟩⟩
  · exact absurd ⟨r, hm, hc⟩ hn
  · exact e
  · simp [hr] at h0
  · simp [hr] at h0
  · simp [hr] at h0
  · simpa [hr] using hq.2.1

theorem State.asked_frame (s : State) : s.asked = { s with
    mem := s.asked.mem, devices := s.asked.devices, oracle := s.oracle.next, draws := s.draws + 1 } := by
  apply State.ext_fields <;> rfl

/-- Settles O19: what every way of a step keeps of the asked state, and what asking changes. -/
theorem stepKeepsParametersAndTestLock : Obligations.StepKeepsParametersAndTestLock := by
  unfold Obligations.StepKeepsParametersAndTestLock
  intro s
  refine ⟨fun t h => ?_, fun h => ?_, fun hd hr => ?_⟩
  · have hk := step_keepsPlatform h
    exact ⟨hk.config, hk.oracle, hk.draws, step_testLock h⟩
  · exact State.asked_still (h.elim State.ticked_quiet State.ticked_stopped)
  · have ht : s.asked = { s.acted (Config.deviceTick s.devices) with
        oracle := s.oracle.next, draws := s.draws + 1 } := by
      rw [State.asked, State.ticked_devices hd hr]
    exact ⟨by rw [ht]; exact ⟨rfl, rfl⟩, s.asked_frame⟩

end Sys2Proof.Machine
end

section
/-! The step in each run state: the decoded instruction or the trap in a quiet state, the reset request, the xirq and the
maskable request that are taken, and the ways out of WAITING and STOPPED; from this O9 and O20 to O26. -/

namespace Sys2Proof.Machine

/-! ### The quiet step -/

/-- In a quiet state the step on decoded bytes is the meaning of their instruction (R120). -/
theorem step_decoded {s : State} {d : Decoded} (hq : s.Quiet) (hd : decode s.asked.fetchBytes = .ok d) :
    step s = exec d.instr ((s.asked.fetched d.length).advance d.length) := by
  rw [step_quiet hq, State.instruction, hd]

/-- Reading code where no device stands changes nothing. -/
theorem State.fetched_plain {s : State} {k : Nat} (h : ∀ j < k, s.IsPlain (s.pc + BitVec.ofNat 16 j)) :
    s.fetched k = s := by
  refine State.readings_plain fun a ha => ?_
  obtain ⟨j, hj, rfl⟩ := mem_addressesFrom ha
  exact h j hj

/-- Settles O9: the step is the meaning of the decoded instruction, which the decoder's soundness makes well-formed. -/
theorem stepRunsTheDecodedInstruction : Obligations.StepRunsTheDecodedInstruction := by
  unfold Obligations.StepRunsTheDecodedInstruction
  intro s d hq hd
  refine ⟨(decode_faithful hd).1, ?_, fun hp => State.fetched_plain (s := s.asked) hp⟩
  rw [step_decoded hq hd, State.advance, State.fetched_pc, State.asked_pc]

/-- The first byte of code is the one at PC. -/
theorem State.fetchBytes_eq (s : State) : ∃ x y z w, s.fetchBytes = [s.fetchByte s.pc, x, y, z, w] :=
  ⟨_, _, _, _, rfl⟩

/-- Settles O24: the trap is an entry through VEC_ILLOP, and the count of its code's bytes is told by the first. -/
theorem unassignedCodeTakesTheIllegalOpcodeTrap : Obligations.UnassignedCodeTakesTheIllegalOpcodeTrap := by
  unfold Obligations.UnassignedCodeTakesTheIllegalOpcodeTrap
  intro s e hq he
  have hk : e.consumed = if isPrefixByte (s.asked.fetchByte s.pc) then 2 else 1 := by
    obtain ⟨x, y, z, w, hb⟩ := s.asked.fetchBytes_eq
    exact decode_error_consumed (hb ▸ he)
  refine ⟨(s.asked.fetched e.consumed).illegalOpcode s.pc e.consumed, ?_, e.consumed, hk, ?_⟩
  · rw [step_quiet hq, State.instruction, he]
    rfl
  · have h := (s.asked.fetched e.consumed).illegalOpcode_enters s.pc e.consumed
    simp only [State.fetched_config, State.asked_config] at h
    exact h

/-- After an instruction that left I clear and set the hold-off bit, another instruction is executed whatever maskable
request is pending (R514). -/
theorem step_heldOff {t : State} (hr : t.run = .running) (hd : t.iDelay = true) (hn : ¬ t.Pending .reset)
    (hx : t.ccr.x = true ∨ ¬ t.Pending .xirq) : step t = t.asked.instruction :=
  step_quiet ⟨hn, hr, hx, .inr (.inl hd)⟩

/-- Settles O23: CLI and TAP by their equations from the state with the hold-off bit cleared, and RTI, which keeps that
bit. -/
theorem clearingIDefersMaskableRequestsByOneInstruction :
    Obligations.ClearingIDefersMaskableRequestsByOneInstruction := by
  unfold Obligations.ClearingIDefersMaskableRequestsByOneInstruction
  intro s d hq hd
  have hrun := hq.2.1
  refine ⟨fun hi h1 => ?_, fun hi => ?_⟩
  · rcases hi with hi | ⟨hi, ha⟩
    · refine ⟨_, (step_decoded hq hd).trans (by rw [hi, exec_cli]), rfl, by simp [h1], fun h0 hn hx => ?_⟩
      exact step_heldOff (by simpa using hrun) h0 hn hx
    · refine ⟨_, (step_decoded hq hd).trans (by rw [hi, exec_tap]), ?_, by simp_all, fun h0 hn hx => ?_⟩
      · simpa [CCR.write] using ha
      · exact step_heldOff (by simpa using hrun) h0 hn hx
  · refine ⟨_, (step_decoded hq hd).trans (by rw [hi, exec_rti]), ?_⟩
    rw [State.returnFromInterrupt_iDelay, State.advance_iDelay]

/-! ### The request that is taken -/

/-- With X clear a pending xirq is chosen (R512, R515). -/
theorem State.allowed_of_xirq {s : State} (hx : s.ccr.x = false) (hp : s.Pending .xirq) :
    ∃ r ∈ s.requests, r.cls = .xirq ∧ s.allowed s.requests = some r := by
  obtain ⟨q, hq, hc⟩ := hp
  cases ha : s.allowed s.requests with
  | none =>
    have hn := (State.allowed_none.mp ha).1.resolve_left (by simp [hx])
    exact absurd hc (hn q hq)
  | some r =>
    rcases State.allowed_some ha with ⟨hm, hr, _⟩ | ⟨_, _, _, _, hn, _⟩
    · exact ⟨r, hm, hr, rfl⟩
    · exact absurd hc (hn.resolve_left (by simp [hx]) q hq)

/-- With no xirq that X allows, and I and the hold-off bit clear, a pending maskable request of the highest vector is
chosen (R513 to R515). -/
theorem State.allowed_of_maskable {s : State} (hx : s.ccr.x = true ∨ ¬ s.Pending .xirq)
    (hi : s.ccr.i = false) (hd : s.iDelay = false) (hp : s.Pending .maskable) :
    ∃ r ∈ s.requests, r.cls = .maskable ∧
      (∀ q ∈ s.requests, q.cls = .maskable → q.vector.toNat ≤ r.vector.toNat) ∧
      s.allowed s.requests = some r := by
  obtain ⟨q, hq, hc⟩ := hp
  cases ha : s.allowed s.requests with
  | none =>
    have hn := ((State.allowed_none.mp ha).2.resolve_left (by simp [hi])).resolve_left (by simp [hd])
    exact absurd hc (hn q hq)
  | some r =>
    rcases State.allowed_some ha with ⟨hm, hr, h0⟩ | ⟨hm, hr, _, _, _, hv⟩
    · exact absurd ⟨r, hm, hr⟩ (hx.resolve_left (by simp [h0]))
    · exact ⟨r, hm, hr, hv, rfl⟩

/-- With no reset request a running step takes the request that is chosen (R506, R510). -/
theorem step_allowed {s : State} {r : Request} (hn : ¬ s.Pending .reset) (hr : s.run = .running)
    (ha : s.allowed s.requests = some r) :
    step s = .next (s.asked.enter r.vector s.pc (r.cls == .xirq) true) := by
  obtain ⟨t, ht⟩ := step_answers s
  rcases step_cases ht with ⟨q, hq, hc, _⟩ | ⟨_, ⟨h0, _⟩ | ⟨h0, _⟩ | ⟨h0, _⟩ | ⟨_, q, hq, rfl⟩ | ⟨hq, _⟩⟩
  · exact absurd ⟨q, hq, hc⟩ hn
  · simp [hr] at h0
  · simp [hr] at h0
  · simp [hr] at h0
  · cases Option.some.inj (ha.symm.trans hq)
    exact ht
  · simp [hq.allowed_none] at ha

theorem step_waiting {s : State} (hn : ¬ s.Pending .reset) (hr : s.run = .waiting) :
    step s = .next (s.asked.waitingBoundary s.requests) := by
  obtain ⟨t, ht⟩ := step_answers s
  rcases step_cases ht with ⟨q, hq, hc, _⟩ | ⟨_, ⟨h0, _⟩ | ⟨h0, _⟩ | ⟨_, rfl⟩ | ⟨h0, _⟩ | ⟨hq, _⟩⟩
  · exact absurd ⟨q, hq, hc⟩ hn
  · simp [hr] at h0
  · simp [hr] at h0
  · exact ht
  · simp [hr] at h0
  · simpa [hr] using hq.2.1

theorem step_stopped {s : State} (hn : ¬ s.Pending .reset) (hr : s.run = .stopped) :
    step s = .next (s.asked.stoppedBoundary s.requests) := by
  obtain ⟨t, ht⟩ := step_answers s
  rcases step_cases ht with ⟨q, hq, hc, _⟩ | ⟨_, ⟨h0, _⟩ | ⟨_, rfl⟩ | ⟨h0, _⟩ | ⟨h0, _⟩ | ⟨hq, _⟩⟩
  · exact absurd ⟨q, hq, hc⟩ hn
  · simp [hr] at h0
  · exact ht
  · simp [hr] at h0
  · simp [hr] at h0
  · simpa [hr] using hq.2.1

/-- Settles O20: of the ways a step can go, a pending reset request leaves only the reset. -/
theorem resetRequestIsTakenFirst : Obligations.ResetRequestIsTakenFirst := by
  unfold Obligations.ResetRequestIsTakenFirst
  intro s hp
  obtain ⟨t, ht⟩ := step_answers s
  rcases step_cases ht with ⟨r, hr, hc, rfl⟩ | ⟨hn, _⟩
  · exact ⟨r, hr, hc, _, ht, rfl, rfl, rfl, rfl, rfl, rfl, rfl, rfl, rfl⟩
  · exact absurd hp hn

/-- Settles O21: the xirq is chosen and its entry is made. -/
theorem xirqIsTakenAheadOfMaskable : Obligations.XirqIsTakenAheadOfMaskable := by
  unfold Obligations.XirqIsTakenAheadOfMaskable
  intro s hn hr hx hp
  obtain ⟨r, hm, hc, ha⟩ := State.allowed_of_xirq hx hp
  have hs := step_allowed hn hr ha
  rw [hc] at hs
  exact ⟨r, hm, hc, _, hs, State.enter_enters s.asked r.vector s.pc true⟩

/-- Settles O22: the highest maskable request is chosen and its entry is made. -/
theorem highestMaskableRequestIsTaken : Obligations.HighestMaskableRequestIsTaken := by
  unfold Obligations.HighestMaskableRequestIsTaken
  intro s hn hr hx hi hd hp
  obtain ⟨r, hm, hc, hv, ha⟩ := State.allowed_of_maskable hx hi hd hp
  have hs := step_allowed hn hr ha
  rw [hc] at hs
  exact ⟨r, hm, hc, hv, _, hs, State.enter_enters s.asked r.vector s.pc false⟩

/-! ### Leaving WAITING and STOPPED -/

/-- The wait ends by the request that is chosen, without a second stacking (R518). -/
theorem step_waiting_allowed {s : State} {r : Request} (hn : ¬ s.Pending .reset) (hr : s.run = .waiting)
    (ha : s.allowed s.requests = some r) :
    step s = .next { s.asked.readingWord r.vector with
      ccr := { s.ccr with i := true, x := (r.cls == .xirq) || s.ccr.x }, iDelay := false
      pc := s.asked.readWord r.vector, run := .running } := by
  rw [step_waiting hn hr, State.waitingBoundary, State.allowed_asked, ha]
  rfl

/-- Settles O25: the chosen request ends the wait, and with none chosen the step ends with the asking. -/
theorem waitEndsOnlyByAnAllowedRequest : Obligations.WaitEndsOnlyByAnAllowedRequest := by
  unfold Obligations.WaitEndsOnlyByAnAllowedRequest
  intro s hr hn
  refine ⟨fun hx hp => ?_, fun hx hi hd hp => ?_, fun hx hi => ?_⟩
  · obtain ⟨r, hm, hc, ha⟩ := State.allowed_of_xirq hx hp
    refine ⟨r, hm, hc, (step_waiting_allowed hn hr ha).trans ?_⟩
    rw [hc]
    rfl
  · obtain ⟨r, hm, hc, hv, ha⟩ := State.allowed_of_maskable hx hi hd hp
    refine ⟨r, hm, hc, hv, (step_waiting_allowed hn hr ha).trans ?_⟩
    rw [hc]
    rfl
  · have ha : s.allowed s.requests = none :=
      State.allowed_none.mpr ⟨hx.imp_right fun h q hq hc => h ⟨q, hq, hc⟩,
        hi.imp_right (Or.imp_right fun h q hq hc => h ⟨q, hq, hc⟩)⟩
    rw [step_waiting hn hr, State.waitingBoundary, State.allowed_asked, ha]

/-- The IRQ pin asks exactly when a maskable request carries VEC_IRQ (R519, log 12). -/
theorem State.irqPin_iff {s : State} {reqs : List Request} :
    s.irqPin reqs = true ↔ ∃ r ∈ reqs, r.cls = .maskable ∧ r.vector = s.config.vecIrq := by
  simp [State.irqPin]

/-- Settles O26, by the ways out of STOPPED in their order. -/
theorem stopEndsByXirqOrUnmaskedIrqPin : Obligations.StopEndsByXirqOrUnmaskedIrqPin := by
  unfold Obligations.StopEndsByXirqOrUnmaskedIrqPin
  intro s hr hn
  have hs := step_stopped hn hr
  refine ⟨State.asked_still (State.ticked_stopped hr), ?_⟩
  rcases s.asked.stoppedBoundary_cases s.requests with
    ⟨hp, h1, e⟩ | ⟨hp, h1, e⟩ | ⟨hp, hpin, h1, e⟩ | ⟨hp, h1, e⟩ <;> rw [e] at hs
  · refine ⟨fun _ h0 => ?_, fun _ _ => hs, fun h0 => absurd hp h0, fun h0 => absurd hp h0⟩
    simp [h0] at h1
  · refine ⟨fun _ _ => ⟨_, hs, s.asked.enter_enters _ _ _⟩, fun _ h0 => ?_, fun h0 => absurd hp h0,
      fun h0 => absurd hp h0⟩
    simp [h0] at h1
  · have hnp : ¬ s.Pending .xirq := fun ⟨r, hm, hc⟩ => hp r hm hc
    refine ⟨fun h0 => absurd h0 hnp, fun h0 => absurd h0 hnp,
      fun _ _ _ => ⟨_, hs, s.asked.enter_enters _ _ _⟩, fun _ h0 => ?_⟩
    obtain ⟨r, hm, hc⟩ := State.irqPin_iff.mp hpin
    exact absurd hc (h0.resolve_left (by simpa using h1) r hm)
  · have hnp : ¬ s.Pending .xirq := fun ⟨r, hm, hc⟩ => hp r hm hc
    refine ⟨fun h0 => absurd h0 hnp, fun h0 => absurd h0 hnp, fun _ h0 hq => ?_, fun _ _ => hs⟩
    have hpin : s.asked.irqPin s.requests = true := State.irqPin_iff.mpr hq
    simp [hpin, h0] at h1

end Sys2Proof.Machine
end

section
/-! The entries and the returns: SWI, WAI, STOP and TEST, RTI as nine pulls, and that RTI finds the nine bytes of the
frame that an entry stacked; from this O27 to O32. -/

namespace Sys2Proof.Machine

/-! ### SWI, WAI, STOP and TEST -/

/-- Settles O27: SWI is an entry with stacking. -/
theorem swiTakesItsException : Obligations.SwiTakesItsException := by
  unfold Obligations.SwiTakesItsException
  exact fun s => ⟨_, exec_swi s, s.enter_enters _ _ _⟩

/-- The run state is no part of the frame. -/
theorem StacksFrame.setRun {s t : State} {p : Word} (h : StacksFrame s t p) (v : RunState) :
    StacksFrame s (t.setRun v) p :=
  ⟨h.pointer, h.stores.congr rfl rfl, h.cells⟩

/-- Settles O28: WAI stacks the frame and changes the run state. -/
theorem waiStacksAndWaits : Obligations.WaiStacksAndWaits := by
  unfold Obligations.WaiStacksAndWaits
  intro s
  refine ⟨_, exec_wai s, (s.stackFrame_stacks s.pc).setRun .waiting, ?_⟩
  apply State.ext_fields <;> simp

/-- Settles O32: the branches of STOP and TEST; the trap's next byte is where PC stands after the one-byte TEST. -/
theorem stopAndTestInTheirModes : Obligations.StopAndTestInTheirModes := by
  unfold Obligations.StopAndTestInTheirModes
  intro s
  refine ⟨fun h => ?_, fun h => ?_, fun h => ?_, fun h => ⟨s.illegalOpcode (s.pc - 1) 1, ?_, ?_⟩⟩
  · rw [exec_stop, h]
    rfl
  · rw [exec_stop, h]
    rfl
  · rw [exec_test, h]
    rfl
  · rw [exec_test, h]
    rfl
  · have he := s.illegalOpcode_enters (s.pc - 1) 1
    have hpc : s.pc - 1 + BitVec.ofNat 16 1 = s.pc := BitVec.sub_add_cancel _ _
    rwa [hpc] at he

/-! ### RTI -/

/-- Where none of the nine cells is a device's, the pulls read what stands there. -/
theorem State.pulls_plain {s : State} (h : ∀ k : Nat, 1 ≤ k → k ≤ 9 → s.IsPlain (s.above k)) :
    s.readings (addressesFrom (s.sp + 1) 9) = s ∧
      ∀ k : Nat, 1 ≤ k → k ≤ 9 → s.pulled k = s.readByte (s.above k) := by
  have hp : ∀ j ≤ 9, ∀ a ∈ addressesFrom (s.sp + 1) j, s.kindAt a ≠ .device := by
    intro j hj a ha
    obtain ⟨i, hi, rfl⟩ := mem_addressesFrom ha
    have := h (1 + i) (by omega) (by omega)
    rwa [State.IsPlain, State.above, ← word_add_add] at this
  exact ⟨State.readings_plain (hp 9 (Nat.le_refl 9)), fun k _ hk => State.pulled_plain (hp (k - 1) (by omega))⟩

/-- Settles O29: the registers from the nine pulls, and the pulls where no device stands. -/
theorem rtiPullsTheFrame : Obligations.RtiPullsTheFrame := by
  unfold Obligations.RtiPullsTheFrame
  intro s
  refine ⟨_, _, rfl, (exec_rti s).trans (congrArg _ s.returnFromInterrupt_eq), rfl, ?_, ?_, ?_, State.pulls_plain⟩
  · exact wordOf_toNat _ _
  · exact wordOf_toNat _ _
  · exact wordOf_toNat _ _

/-- RTI where the nine cells above SP hold the frame of `s` and no device stands among them. -/
theorem State.returnFromInterrupt_frame {s t : State} {p : Word}
    (hp : ∀ k : Nat, 1 ≤ k → k ≤ 9 → t.IsPlain (t.above k))
    (hf : ∀ k : Nat, 1 ≤ k → k ≤ 9 → t.readByte (t.above k) = frameByte s p k) :
    t.returnFromInterrupt = { t with
      ccr := t.ccr.write s.ccr.toByte, b := s.b, a := s.a, ix := s.ix, iy := s.iy, pc := p
      sp := t.sp + 9 } := by
  obtain ⟨hr, hpull⟩ := State.pulls_plain hp
  have hb : ∀ k, 1 ≤ k → k ≤ 9 → t.pulled k = frameByte s p k :=
    fun k h1 h9 => (hpull k h1 h9).trans (hf k h1 h9)
  rw [State.returnFromInterrupt_eq, hr, hb 1, hb 2, hb 3, hb 4, hb 5, hb 6, hb 7, hb 8, hb 9] <;>
    simp [frameByte, State.above]

/-- What RTI restores the flags to is the CCR before the entry: X could only rise there. -/
theorem CCR.write_toByte_entered (f : CCR) (setX : Bool) :
    ({ f with i := true, x := setX || f.x } : CCR).write f.toByte = f := by
  refine CCR.write_toByte _ _ ?_
  cases f.x <;> simp

/-- An entry at plain vector cells, whose nine stack cells are storage, and then RTI. -/
theorem Enters.rti {s t : State} {vector returnPc : Word} {setX : Bool} (he : Enters s t vector returnPc setX)
    (hst : ∀ k : Nat, 1 ≤ k → k ≤ 9 → s.IsStorage (s.sp - 9 + BitVec.ofNat 16 k))
    (hv : s.IsPlain vector) (hv' : s.IsPlain (vector + 1)) :
    exec .rti t = .next { s with pc := returnPc, mem := t.mem, iDelay := false, run := .running } := by
  obtain ⟨u, hf, hu, ht⟩ := he
  have hkind (x : Word) : u.kindAt x = s.kindAt x := by rw [hu]; rfl
  rw [State.readingWord_plain (by rwa [hkind]) (by rwa [hkind])] at ht
  have hsp : t.sp = s.sp - 9 := by rw [ht]; exact hf.pointer
  have habove (k : Nat) : t.above k = u.above k := by rw [ht]; rfl
  have hstore (k : Nat) (h1 : 1 ≤ k) (h9 : k ≤ 9) : s.kindAt (t.above k) = .storage := by
    rw [State.above, hsp]
    exact hst k h1 h9
  have hplain (k : Nat) (h1 : 1 ≤ k) (h9 : k ≤ 9) : s.kindAt (t.above k) ≠ .device := by
    rw [hstore k h1 h9]
    decide
  obtain ⟨hdev, hread, _⟩ := hf.cells fun k h1 h9 => habove k ▸ hplain k h1 h9
  have hbytes (k : Nat) (h1 : 1 ≤ k) (h9 : k ≤ 9) : t.readByte (t.above k) = frameByte s returnPc k := by
    rw [← hread k h1 h9 (habove k ▸ hstore k h1 h9), habove, ht]
    rfl
  have hplain' (k : Nat) (h1 : 1 ≤ k) (h9 : k ≤ 9) : t.IsPlain (t.above k) := by
    have hk : t.kindAt (t.above k) = s.kindAt (t.above k) := by rw [← hkind, ht]; rfl
    rw [State.IsPlain, hk]
    exact hplain k h1 h9
  rw [exec_rti, State.returnFromInterrupt_frame hplain' hbytes]
  congr 1
  apply State.ext_fields
  case sp => exact (congrArg (· + 9) hsp).trans (BitVec.sub_add_cancel s.sp 9)
  case ccr => rw [ht]; exact CCR.write_toByte_entered s.ccr setX
  case devices => rw [ht]; exact hdev
  case config => rw [ht, hu]
  case oracle => rw [ht, hu]
  case draws => rw [ht, hu]
  case run => rw [ht]
  case iDelay => rw [ht]
  all_goals rfl

/-- Settles O30: the frame is found in the nine storage cells, and its CCR byte restores the flags, X too, since an entry
sets X only where it was clear. -/
theorem rtiUndoesEveryEntry : Obligations.RtiUndoesEveryEntry := by
  unfold Obligations.RtiUndoesEveryEntry
  exact fun _ _ _ _ _ he _ hst hv hv' => he.rti hst hv hv'

/-- An entry ends in RUNNING, whatever the run state was (R506). -/
theorem State.setRun_vectorTo (s : State) (r : RunState) (v : Word) (setX : Bool) :
    (s.setRun r).vectorTo v setX = s.vectorTo v setX := by
  rw [State.vectorTo, State.readingWord, State.setRun_reading, State.setRun_reading, State.setRun_readWord]
  rfl

/-- WAI and an entry without stacking are together an entry with stacking (R413, R518). -/
theorem State.enter_after_wai (s : State) (vector q : Word) (setX : Bool) :
    ((s.stackFrame s.pc).setRun .waiting).enter vector q setX false = s.enter vector s.pc setX true :=
  State.setRun_vectorTo (s.stackFrame s.pc) .waiting vector setX

/-- Settles O31: the wait and the wake-up are one entry, which RTI undoes. -/
theorem handlerAfterWaiReturnsPastIt : Obligations.HandlerAfterWaiReturnsPastIt := by
  unfold Obligations.HandlerAfterWaiReturnsPastIt
  intro s t vector setX h hx hst hv hv' q
  obtain rfl := exec_unique (exec_wai s) h
  have hk (x : Word) : (s.stackFrame s.pc).kindAt x = s.kindAt x := s.stackFrame_kindAt s.pc x
  have hm : (s.enter vector s.pc setX true).mem = (s.stackFrame s.pc).mem := by
    rw [State.enter_stack, State.vectorTo_mem, State.readingWord_plain (by rwa [hk]) (by rwa [hk])]
  rw [State.enter_after_wai, (s.enter_enters vector s.pc setX).rti hst hv hv', hm, State.setRun_mem]

end Sys2Proof.Machine
end

section
/-! Eight-bit and sixteen-bit arithmetic, logic, shifts and rotates, from what the flag functions compute: one lemma for
each of the places an effect can act on (an accumulator, the byte in memory, the flags alone); from this O33 to O36,
O39 to O42, O44 to O46. -/

namespace Sys2Proof.Machine

/-! ### The eight-bit effects where they act -/

/-- An instruction that puts the result of `op` into A and its flags into the CCR. -/
theorem actsOnA_of_exec {i : Instr} {s u : State} {op : Byte → CCR → Byte × CCR} {e : Effect}
    (h : exec i s = .next (u.resultA (op s.a s.ccr))) (he : ∀ x f, e x f (op x f).1 (op x f).2) :
    ActsOnA i s u e :=
  ⟨_, _, h, he s.a s.ccr⟩

/-- The same of B. -/
theorem actsOnB_of_exec {i : Instr} {s u : State} {op : Byte → CCR → Byte × CCR} {e : Effect}
    (h : exec i s = .next (u.resultB (op s.b s.ccr))) (he : ∀ x f, e x f (op x f).1 (op x f).2) :
    ActsOnB i s u e :=
  ⟨_, _, h, he s.b s.ccr⟩

/-- An instruction that reads, computes and writes back the byte at the effective address (R61). -/
theorem actsOnMemory_of_exec {i : Instr} {m : Mem} {s : State} {op : Byte → CCR → Byte × CCR} {e : Effect}
    (h : exec i s = .next (s.modifyByte m op)) (he : ∀ x f, e x f (op x f).1 (op x f).2) :
    ActsOnMemory i m s e :=
  ⟨_, _, _, h, he (s.readByte (s.ea m)) s.ccr, s.modifyByte_stores m op, s.modifyByte_frame m op⟩

/-- Settles O33: each is `Add8` into an accumulator. -/
theorem eightBitAdditions : Obligations.EightBitAdditions := by
  unfold Obligations.EightBitAdditions
  exact fun s o => ⟨⟨_, _, rfl, add8_adds _ _ _ _⟩, ⟨_, _, rfl, add8_adds _ _ _ _⟩,
    ⟨_, _, rfl, add8_adds _ _ _ _⟩, ⟨_, _, rfl, add8_adds _ _ _ _⟩, ⟨_, _, rfl, add8_adds _ _ _ _⟩⟩

/-- Settles O34: each is `Sub8`, into an accumulator or for the flags alone. -/
theorem eightBitSubtractionsAndComparisons : Obligations.EightBitSubtractionsAndComparisons := by
  unfold Obligations.EightBitSubtractionsAndComparisons
  exact fun s o => ⟨⟨_, _, rfl, sub8_subtracts _ _ _ _⟩, ⟨_, _, rfl, sub8_subtracts _ _ _ _⟩,
    ⟨_, _, rfl, sub8_subtracts _ _ _ _⟩, ⟨_, _, rfl, sub8_subtracts _ _ _ _⟩,
    ⟨_, _, rfl, sub8_subtracts _ _ _ _⟩, ⟨_, _, rfl, sub8_subtracts _ _ _ _⟩,
    ⟨_, _, rfl, sub8_subtracts _ _ _ _⟩, ⟨_, _, rfl, sub8_subtracts _ _ _ _⟩⟩

/-- Settles O35: `Add16` or `Sub16` of D or an index register. -/
theorem sixteenBitArithmeticAndComparisons : Obligations.SixteenBitArithmeticAndComparisons := by
  unfold Obligations.SixteenBitArithmeticAndComparisons
  exact fun s o => ⟨⟨_, _, rfl, add16_adds _ _ _⟩, ⟨_, _, rfl, sub16_subtracts _ _ _⟩,
    ⟨_, _, rfl, sub16_subtracts _ _ _⟩, ⟨_, _, rfl, sub16_subtracts _ _ _⟩,
    ⟨_, _, rfl, sub16_subtracts _ _ _⟩⟩

/-- Settles O36: the results are the model's conjunction, disjunction and exclusive or, whose bits the library gives, and
the flags are those of a load. -/
theorem logicOnTheAccumulators : Obligations.LogicOnTheAccumulators := by
  unfold Obligations.LogicOnTheAccumulators
  intro s o
  refine ⟨s.a &&& s.opr8 o, s.b &&& s.opr8 o, s.a ||| s.opr8 o, s.b ||| s.opr8 o, s.a ^^^ s.opr8 o,
    s.b ^^^ s.opr8 o, fun _ _ => BitVec.getLsbD_and, fun _ _ => BitVec.getLsbD_and,
    fun _ _ => BitVec.getLsbD_or, fun _ _ => BitVec.getLsbD_or, fun _ _ => BitVec.getLsbD_xor,
    fun _ _ => BitVec.getLsbD_xor, ?_⟩
  simp only [← CCR.logic_eq_signs]
  exact ⟨rfl, rfl, rfl, rfl, rfl, rfl, rfl, rfl⟩

/-- Settles O39. -/
theorem incrementsAndDecrementsOfAByte : Obligations.IncrementsAndDecrementsOfAByte := by
  unfold Obligations.IncrementsAndDecrementsOfAByte
  exact fun s m => ⟨actsOnMemory_of_exec rfl inc8_increments, actsOnA_of_exec rfl inc8_increments,
    actsOnB_of_exec rfl inc8_increments, actsOnMemory_of_exec rfl dec8_decrements,
    actsOnA_of_exec rfl dec8_decrements, actsOnB_of_exec rfl dec8_decrements⟩

/-- CLR (R264) writes its byte without reading it (R66). -/
theorem exec_clr_stores (s : State) (m : Mem) : ∃ t, exec (.clr m) s = .next t ∧ StoresByte s t (s.ea m) 0 ∧
    t = { s with ccr := { s.ccr with n := false, z := true, v := false, c := false }
                 mem := t.mem, devices := t.devices } := by
  refine ⟨_, rfl, s.writeByte_stores (s.ea m) 0, ?_⟩
  apply State.ext_fields <;> simp [CCR.clear]

/-- Settles O40. -/
theorem negateComplementClearAndTest : Obligations.NegateComplementClearAndTest := by
  unfold Obligations.NegateComplementClearAndTest
  intro s m
  simp only [← CCR.test_eq_signs]
  exact ⟨actsOnMemory_of_exec rfl neg8_negates, actsOnA_of_exec rfl neg8_negates,
    actsOnB_of_exec rfl neg8_negates, actsOnMemory_of_exec rfl com8_complements,
    actsOnA_of_exec rfl com8_complements, actsOnB_of_exec rfl com8_complements, exec_clr_stores s m,
    ⟨0, s.ccr.clear, rfl, rfl, rfl⟩, ⟨0, s.ccr.clear, rfl, rfl, rfl⟩, rfl, rfl, rfl⟩

/-- Settles O41. -/
theorem shiftsByOnePlace : Obligations.ShiftsByOnePlace := by
  unfold Obligations.ShiftsByOnePlace
  intro s m
  obtain ⟨hl, fl⟩ := asl_word s.d s.ccr
  obtain ⟨hr, fr⟩ := lsr_word s.d s.ccr
  refine ⟨actsOnMemory_of_exec rfl asl_shiftsLeft, actsOnA_of_exec rfl asl_shiftsLeft,
    actsOnB_of_exec rfl asl_shiftsLeft, actsOnMemory_of_exec rfl asl_shiftsLeft,
    actsOnA_of_exec rfl asl_shiftsLeft, actsOnB_of_exec rfl asl_shiftsLeft,
    actsOnMemory_of_exec rfl asr8_halvesSigned, actsOnA_of_exec rfl asr8_halvesSigned,
    actsOnB_of_exec rfl asr8_halvesSigned, actsOnMemory_of_exec rfl lsr_halvesUnsigned,
    actsOnA_of_exec rfl lsr_halvesUnsigned, actsOnB_of_exec rfl lsr_halvesUnsigned,
    ⟨(asl s.d s.ccr).1, hl, ?_⟩, ⟨(lsr s.d s.ccr).1, hr, ?_⟩⟩
  · rw [← fl]
    exact ⟨rfl, rfl⟩
  · rw [← fr]
    rfl

/-- Settles O42. -/
theorem rotatesThroughTheCarry : Obligations.RotatesThroughTheCarry := by
  unfold Obligations.RotatesThroughTheCarry
  exact fun s m => ⟨actsOnMemory_of_exec rfl rol8_rotatesLeft, actsOnA_of_exec rfl rol8_rotatesLeft,
    actsOnB_of_exec rfl rol8_rotatesLeft, actsOnMemory_of_exec rfl ror8_rotatesRight,
    actsOnA_of_exec rfl ror8_rotatesRight, actsOnB_of_exec rfl ror8_rotatesRight⟩

/-! ### Counters and transfers -/

/-- The Z that a counter up writes (R301): it wraps to zero from 65535. -/
theorem add_one_beq_zero (w : Word) : (w + 1 == 0) = decide (w.toNat = 65535) := by
  have := w.isLt
  refine (beq_zero_eq_toNat (w + 1)).trans (decide_eq_decide.mpr ?_)
  rw [toNat_add_one]
  omega

/-- The Z that a counter down writes (R291): it comes to zero from 1. -/
theorem sub_one_beq_zero (w : Word) : (w - 1 == 0) = decide (w.toNat = 1) := by
  have := w.isLt
  have hs := toNat_sub_one_step w
  have := (w - 1).isLt
  exact (beq_zero_eq_toNat (w - 1)).trans (decide_eq_decide.mpr (by omega))

/-- Settles O44: a step of a word by one, and Z at the value from which it comes to zero. -/
theorem indexRegisterCounters : Obligations.IndexRegisterCounters := by
  unfold Obligations.IndexRegisterCounters
  intro s
  simp only [← add_one_beq_zero, ← sub_one_beq_zero]
  exact ⟨⟨_, toNat_add_one s.ix, rfl⟩, ⟨_, toNat_add_one s.iy, rfl⟩, ⟨_, toNat_sub_one_step s.ix, rfl⟩,
    ⟨_, toNat_sub_one_step s.iy, rfl⟩⟩

/-- Settles O45. -/
theorem transfersBetweenAccumulators : Obligations.TransfersBetweenAccumulators := by
  unfold Obligations.TransfersBetweenAccumulators
  intro s
  simp only [← CCR.logic_eq_signs]
  exact ⟨rfl, rfl⟩

/-- The bits of the CCR as a byte (R27): they are what a write of that byte with X set would restore. -/
theorem CCR.toByte_bits (f : CCR) :
    f.toByte.getLsbD 7 = f.s ∧ f.toByte.getLsbD 6 = f.x ∧ f.toByte.getLsbD 5 = f.h ∧
      f.toByte.getLsbD 4 = f.i ∧ f.toByte.getLsbD 3 = f.n ∧ f.toByte.getLsbD 2 = f.z ∧
      f.toByte.getLsbD 1 = f.v ∧ f.toByte.getLsbD 0 = f.c := by
  have h := CCR.write_toByte f { f with x := true } (.inl rfl)
  exact ⟨congrArg CCR.s h, congrArg CCR.x h, congrArg CCR.h h, congrArg CCR.i h, congrArg CCR.n h,
    congrArg CCR.z h, congrArg CCR.v h, congrArg CCR.c h⟩

/-- Settles O46: TAP and CLI by their equations, TPA by the bits of the byte it moves. -/
theorem transfersOfTheConditionCodes : Obligations.TransfersOfTheConditionCodes := by
  unfold Obligations.TransfersOfTheConditionCodes
  exact fun s => ⟨⟨s.ccr.toByte, rfl, s.ccr.toByte_bits⟩, exec_tap s, exec_cli s⟩

end Sys2Proof.Machine
end

section
/-! Branches on the flags, and the bit tests of a masked byte; from this O50 and O51. After a comparison the conditions
are the orders of the numbers; from this O55. -/

namespace Sys2Proof.Machine

/-! ### A branch in the terms of the statements -/

/-- An instruction that branches on `c`, once its operand has been read, which leaves PC alone. -/
theorem branches_of_exec {i : Instr} {rr : Byte} {s u : State} {c : Bool} {taken : Prop}
    (h : exec i s = .next (u.branchIf c rr)) (hpc : u.pc = s.pc) (hc : c = true ↔ taken) :
    Branches i rr s u taken := by
  refine ⟨fun ht => ?_, fun ht => ?_⟩
  · rw [h, hc.mpr ht, State.branchIf, if_pos rfl, State.relTarget_eq, State.branchTarget, hpc]
    rfl
  · rw [h, Bool.eq_false_iff.mpr (mt hc.mp ht)]
    rfl

/-- A branch on flags alone. -/
theorem branches_of_flags {i : Instr} {rr : Byte} {s : State} {c : Bool} {taken : Prop}
    (h : exec i s = .next (s.branchIf c rr)) (hc : c = true ↔ taken) : Branches i rr s s taken :=
  branches_of_exec h rfl hc

/-! ### The conditions of R141 on the flags -/

theorem CCR.higher_iff (f : CCR) : f.higher = true ↔ f.c = false ∧ f.z = false := by
  simp [CCR.higher]

theorem CCR.lowerOrSame_iff (f : CCR) : f.lowerOrSame = true ↔ f.c = true ∨ f.z = true := by
  simp [CCR.lowerOrSame]

theorem CCR.less_iff (f : CCR) : f.less = true ↔ f.n ≠ f.v := by
  simp [CCR.less]

theorem CCR.greaterOrEqual_iff (f : CCR) : f.greaterOrEqual = true ↔ f.n = f.v := by
  simp [CCR.greaterOrEqual]

theorem CCR.lessOrEqual_iff (f : CCR) : f.lessOrEqual = true ↔ f.z = true ∨ f.n ≠ f.v := by
  simp [CCR.lessOrEqual]

theorem CCR.greater_iff (f : CCR) : f.greater = true ↔ f.z = false ∧ f.n = f.v := by
  simp [CCR.greater]

/-- Settles O50, condition by condition. -/
theorem conditionalBranches : Obligations.ConditionalBranches := by
  unfold Obligations.ConditionalBranches
  exact fun s rr => ⟨branches_of_flags rfl (by simp), ⟨False.elim, fun _ => rfl⟩,
    branches_of_flags rfl s.ccr.higher_iff, branches_of_flags rfl s.ccr.lowerOrSame_iff,
    branches_of_flags rfl (by simp), branches_of_flags rfl (by simp), branches_of_flags rfl .rfl,
    branches_of_flags rfl .rfl, branches_of_flags rfl (by simp), branches_of_flags rfl .rfl,
    branches_of_flags rfl (by simp), branches_of_flags rfl .rfl, branches_of_flags rfl (by simp),
    branches_of_flags rfl .rfl, branches_of_flags rfl s.ccr.greaterOrEqual_iff,
    branches_of_flags rfl s.ccr.less_iff, branches_of_flags rfl s.ccr.greater_iff,
    branches_of_flags rfl s.ccr.lessOrEqual_iff⟩

/-! ### Masked bytes -/

/-- A masked byte is zero exactly when every selected bit is clear (R241). -/
theorem and_beq_zero_iff (x mm : Byte) :
    (x &&& mm == 0) = true ↔ ∀ k < 8, mm.getLsbD k = true → x.getLsbD k = false := by
  rw [beq_iff_eq]
  refine ⟨fun h k _ hm => ?_, fun h => BitVec.eq_of_getLsbD_eq fun k hk => ?_⟩
  · have hk : (x &&& mm).getLsbD k = false := by rw [h]; exact BitVec.getLsbD_zero
    rwa [BitVec.getLsbD_and, hm, Bool.and_true] at hk
  · have h0 : (0 : Byte).getLsbD k = false := BitVec.getLsbD_zero
    rw [BitVec.getLsbD_and, h0]
    cases hm : mm.getLsbD k with
    | false => exact Bool.and_false _
    | true => rw [h k hk hm, Bool.false_and]

/-- The complement that BRSET tests (R243): every selected bit is set. -/
theorem not_and_beq_zero_iff (x mm : Byte) :
    (~~~x &&& mm == 0) = true ↔ ∀ k < 8, mm.getLsbD k = true → x.getLsbD k = true := by
  rw [and_beq_zero_iff]
  refine forall₂_congr fun k hk => imp_congr_right fun _ => ?_
  rw [BitVec.getLsbD_not, decide_eq_true hk, Bool.true_and, Bool.not_eq_false']

/-- Settles O51: the written byte bit by bit, and the tests on the masked byte. -/
theorem bitManipulation : Obligations.BitManipulation := by
  unfold Obligations.BitManipulation
  intro s m mm rr
  refine ⟨actsOnMemory_of_exec rfl fun x f => ⟨fun k _ => BitVec.getLsbD_or, f.logic_eq_signs _⟩,
    actsOnMemory_of_exec rfl fun x f => ⟨fun k hk => ?_, f.logic_eq_signs _⟩,
    branches_of_exec rfl rfl (not_and_beq_zero_iff _ mm), branches_of_exec rfl rfl (and_beq_zero_iff _ mm)⟩
  rw [BitVec.getLsbD_and, BitVec.getLsbD_not, decide_eq_true hk, Bool.true_and]

/-! ### The flags of a comparison as orders of numbers -/

theorem sub8_c (a m : Byte) (f : CCR) : (sub8 a m false f).2.c = true ↔ a.toNat < m.toNat := by
  simp [sub8]

theorem sub8_z (a m : Byte) (f : CCR) : (sub8 a m false f).2.z = true ↔ a = m := by
  have ha := a.isLt
  have hm := m.isLt
  have hr := sub8_fst_toNat a m false f
  have hz : (sub8 a m false f).2.z = decide ((sub8 a m false f).1.toNat = 0) := beq_zero_eq_toNat _
  rw [hz, decide_eq_true_iff, ← BitVec.toNat_inj]
  simp only [Bool.toNat_false] at hr
  omega

/-- N and V differ exactly when the first number is the smaller as signed numbers. -/
theorem sub8_n_ne_v (a m : Byte) (f : CCR) :
    (sub8 a m false f).2.n ≠ (sub8 a m false f).2.v ↔ a.toInt < m.toInt := by
  have ha := a.isLt
  have hm := m.isLt
  have hr := sub8_fst_toNat a m false f
  have hn : (sub8 a m false f).2.n = (sub8 a m false f).1.msb := rfl
  have hv : (sub8 a m false f).2.v = ((a.msb != m.msb) && ((sub8 a m false f).1.msb != a.msb)) := rfl
  rw [hn, hv, byte_toInt, byte_toInt]
  simp only [BitVec.msb_eq_decide, Bool.toNat_false] at hr ⊢
  generalize (sub8 a m false f).1.toNat = r at hr ⊢
  by_cases h1 : 128 ≤ a.toNat <;> by_cases h2 : 128 ≤ m.toNat <;> by_cases h3 : 128 ≤ r <;>
    simp [h1, h2, h3] <;> omega

/-- Settles O55: C, Z and N xor V after the comparison, each as an order of A and the operand. -/
theorem compareThenBranchOrdersNumbers : Obligations.CompareThenBranchOrdersNumbers := by
  unfold Obligations.CompareThenBranchOrdersNumbers
  intro s o rr
  generalize hm : s.opr8 o = m
  have hc := sub8_c s.a m s.ccr
  have hz := sub8_z s.a m s.ccr
  have hl := sub8_n_ne_v s.a m s.ccr
  have hu : s.a = m ↔ s.a.toNat = m.toNat := BitVec.toNat_inj.symm
  have hi : s.a = m ↔ s.a.toInt = m.toInt := BitVec.toInt_inj.symm
  have hc' : (sub8 s.a m false s.ccr).2.c = false ↔ m.toNat ≤ s.a.toNat := by
    rw [← Bool.not_eq_true, hc, Nat.not_lt]
  have hz' : (sub8 s.a m false s.ccr).2.z = false ↔ s.a ≠ m := by rw [← Bool.not_eq_true, hz]
  have hl' : (sub8 s.a m false s.ccr).2.n = (sub8 s.a m false s.ccr).2.v ↔ m.toInt ≤ s.a.toInt := by
    rw [← not_iff_not, ← ne_eq, hl, Int.not_le]
  refine ⟨(s.after8 o).setCCR (sub8 s.a m false s.ccr).2, by rw [← hm]; rfl,
    branches_of_flags rfl ((CCR.higher_iff _).trans ?_), branches_of_flags rfl ((CCR.lowerOrSame_iff _).trans ?_),
    branches_of_flags rfl ((by simp : _ ↔ _).trans hc'), branches_of_flags rfl hc,
    branches_of_flags rfl ((by simp : _ ↔ _).trans hz'), branches_of_flags rfl hz,
    branches_of_flags rfl ((CCR.greater_iff _).trans ?_), branches_of_flags rfl ((CCR.lessOrEqual_iff _).trans ?_),
    branches_of_flags rfl ((CCR.greaterOrEqual_iff _).trans hl'),
    branches_of_flags rfl ((CCR.less_iff _).trans hl)⟩
  all_goals rw [State.setCCR_ccr]
  · rw [hc', hz', ne_eq, hu]; omega
  · rw [hc, hz, hu]; omega
  · rw [hz', hl', ne_eq, hi]; omega
  · rw [hz, hl, hi]; omega

end Sys2Proof.Machine
end

section
/-! MUL, IDIV and FDIV by the numbers, and FDIV repeated; from this O53 and O57. -/

namespace Sys2Proof.Machine

/-- A number below 65536 as a word. -/
theorem word_ofNat_toNat {n : Nat} (h : n < 65536) : (BitVec.ofNat 16 n).toNat = n := by
  rw [BitVec.toNat_ofNat]
  exact Nat.mod_eq_of_lt h

theorem word_ofNat_bit7 (n : Nat) : (BitVec.ofNat 16 n).getLsbD 7 = decide (128 ≤ n % 256) := by
  rw [BitVec.getLsbD, BitVec.toNat_ofNat, Nat.testBit_eq_decide_div_mod_eq]
  exact decide_eq_decide.mpr (by omega)

/-- The product of two bytes fits a word. -/
theorem byte_mul_lt (a b : Byte) : a.toNat * b.toNat < 65536 :=
  Nat.mul_lt_mul'' a.isLt b.isLt

theorem exec_mul_eq (s : State) : ∃ p : Word, p.toNat = s.a.toNat * s.b.toNat ∧
    exec .mul s = .next { s with
      a := highByte p, b := lowByte p
      ccr := { s.ccr with c := decide (128 ≤ s.a.toNat * s.b.toNat % 256) } } := by
  refine ⟨BitVec.ofNat 16 (s.a.toNat * s.b.toNat), word_ofNat_toNat (byte_mul_lt s.a s.b), ?_⟩
  rw [← word_ofNat_bit7]
  rfl

theorem exec_idiv_eq {s : State} (h : s.ix.toNat ≠ 0) : ∃ q r : Word,
    q.toNat = s.d.toNat / s.ix.toNat ∧ r.toNat = s.d.toNat % s.ix.toNat ∧
    exec .idiv s = .next { s with
      ix := q, a := highByte r, b := lowByte r
      ccr := { s.ccr with z := decide (s.d.toNat < s.ix.toNat), v := false, c := false } } := by
  refine ⟨s.d / s.ix, s.d % s.ix, BitVec.toNat_udiv, BitVec.toNat_umod, ?_⟩
  have h0 : s.ix ≠ 0 := fun h0 => h (by rw [h0]; rfl)
  have hz : (s.d / s.ix == 0) = decide (s.d.toNat < s.ix.toNat) := by
    refine (beq_zero_eq_toNat (s.d / s.ix)).trans (decide_eq_decide.mpr ?_)
    rw [BitVec.toNat_udiv, Nat.div_eq_zero_iff]
    exact ⟨fun h' => h'.resolve_left h, .inr⟩
  rw [exec, execIdiv, if_neg h0, hz]
  rfl

theorem exec_idiv_zero {s : State} (h : s.ix.toNat = 0) : exec .idiv s = .next { s with
    ix := 0xFFFF, a := highByte (Config.undefDDiv s.draws), b := lowByte (Config.undefDDiv s.draws)
    ccr := { s.ccr with z := false, v := false, c := true } } := by
  have h0 : s.ix = 0 := BitVec.eq_of_toNat_eq h
  rw [exec, execIdiv, if_pos h0]
  rfl

/-- The quotient of a proper fraction fits a word. -/
theorem fraction_lt {d x : Nat} (h : d < x) : d * 65536 / x < 65536 :=
  (Nat.div_lt_iff_lt_mul (by omega)).mpr (by omega)

theorem exec_fdiv_eq {s : State} (h : s.d.toNat < s.ix.toNat) : ∃ q r : Word,
    q.toNat = s.d.toNat * 65536 / s.ix.toNat ∧ r.toNat = s.d.toNat * 65536 % s.ix.toNat ∧
    exec .fdiv s = .next { s with
      ix := q, a := highByte r, b := lowByte r
      ccr := { s.ccr with z := decide (s.d.toNat * 65536 < s.ix.toNat), v := false, c := false } } := by
  have hx := s.ix.isLt
  have hr : s.d.toNat * 65536 % s.ix.toNat < s.ix.toNat := Nat.mod_lt _ (by omega)
  have hq := word_ofNat_toNat (fraction_lt h)
  refine ⟨BitVec.ofNat 16 (s.d.toNat * 65536 / s.ix.toNat), BitVec.ofNat 16 (s.d.toNat * 65536 % s.ix.toNat),
    hq, word_ofNat_toNat (by omega), ?_⟩
  have hz : (BitVec.ofNat 16 (s.d.toNat * 65536 / s.ix.toNat) == 0) =
      decide (s.d.toNat * 65536 < s.ix.toNat) := by
    refine (beq_zero_eq_toNat _).trans (decide_eq_decide.mpr ?_)
    rw [hq, Nat.div_eq_zero_iff]
    exact ⟨fun h' => h'.resolve_left (by omega), .inr⟩
  rw [exec, execFdiv, if_neg (Nat.not_le.mpr h)]
  simp only [hz]
  rfl

theorem exec_fdiv_improper {s : State} (h : s.ix.toNat ≤ s.d.toNat) : exec .fdiv s = .next { s with
    ix := 0xFFFF, a := highByte (Config.undefDDiv s.draws), b := lowByte (Config.undefDDiv s.draws)
    ccr := { s.ccr with z := false, v := true, c := decide (s.ix.toNat = 0) } } := by
  have hz : (s.ix == 0) = decide (s.ix.toNat = 0) := beq_zero_eq_toNat s.ix
  rw [exec, execFdiv, if_pos h, hz]
  rfl

/-- Settles O53, by the divisor and, for FDIV, by whether the fraction is proper. -/
theorem multiplyAndDivide : Obligations.MultiplyAndDivide := by
  unfold Obligations.MultiplyAndDivide
  exact fun s => ⟨exec_mul_eq s, exec_idiv_eq, fun h => ⟨_, exec_idiv_zero h⟩, exec_fdiv_eq,
    fun h => ⟨_, exec_fdiv_improper h⟩⟩

/-- Long division by sixteen more bits: the first quotient and remainder, and those of the remainder. -/
theorem div_mod_next_word (n x : Nat) (hx : 0 < x) :
    n / x * 65536 + n % x * 65536 / x = n * 65536 / x ∧ n % x * 65536 % x = n * 65536 % x := by
  have h : n * 65536 = x * (n / x * 65536) + n % x * 65536 := by
    rw [← Nat.mul_assoc, ← Nat.add_mul, Nat.div_add_mod]
  rw [h, Nat.mul_add_div hx, Nat.mul_add_mod]
  exact ⟨rfl, rfl⟩

/-- FDIV of a proper fraction by the numbers alone. -/
theorem exec_fdiv_numbers {s : State} (h : s.d.toNat < s.ix.toNat) : ∃ t, exec .fdiv s = .next t ∧
    t.ix.toNat = s.d.toNat * 65536 / s.ix.toNat ∧ t.d.toNat = s.d.toNat * 65536 % s.ix.toNat ∧
    t.ccr.v = false := by
  obtain ⟨q, r, hq, hr, he⟩ := exec_fdiv_eq h
  exact ⟨_, he, hq, (congrArg BitVec.toNat (wordOf_high_low r)).trans hr, rfl⟩

theorem exec_ldx_imm (s : State) (x : Word) : ∃ u, exec (.ldx (.imm x)) s = .next u ∧ u.ix = x ∧ u.d = s.d :=
  ⟨_, rfl, rfl, rfl⟩

/-- Settles O57: the second FDIV divides the first remainder, sixteen bits further. -/
theorem secondFractionalDivideGivesTheNextSixteenBits :
    Obligations.SecondFractionalDivideGivesTheNextSixteenBits := by
  unfold Obligations.SecondFractionalDivideGivesTheNextSixteenBits
  intro s h
  have hx : 0 < s.ix.toNat := by omega
  obtain ⟨t, ht, htq, htr, _⟩ := exec_fdiv_numbers h
  obtain ⟨u, hu, hux, hud⟩ := exec_ldx_imm t s.ix
  have hlt : t.d.toNat < s.ix.toNat := htr ▸ Nat.mod_lt _ hx
  obtain ⟨v, hv, hvq, hvr, hvv⟩ := exec_fdiv_numbers (s := u) (by rwa [hux, hud])
  obtain ⟨hq, hr⟩ := div_mod_next_word (s.d.toNat * 65536) s.ix.toNat hx
  have hbig : s.d.toNat * 65536 * 65536 = s.d.toNat * 4294967296 := Nat.mul_assoc _ _ _
  rw [hbig] at hq hr
  exact ⟨t, u, v, ht, hu, hv, hlt, hvv, by rw [htq, hvq, hux, hud, htr, hq], by rw [hvr, hux, hud, htr, hr]⟩

end Sys2Proof.Machine
end

section
/-! DAA by the rows of its table, and after an addition of decimal digits; from this O54 and O56. -/

namespace Sys2Proof.Machine

/-- The correction of R276 is the sum of its two digits' corrections. -/
theorem daaCorrection_toNat (a : Byte) (f : CCR) : (daaCorrection a f).toNat =
    (if daaLow a f then 6 else 0) + (if daaHigh a f then 96 else 0) := by
  unfold daaCorrection
  cases daaLow a f <;> cases daaHigh a f <;> rfl

/-- DAA on a listed input, by the two digits' corrections. -/
theorem exec_daa_listed {s : State} {low high : Bool} (hl : daaListed s.a s.ccr = true)
    (hlow : daaLow s.a s.ccr = low) (hhigh : daaHigh s.a s.ccr = high) : ∃ (r : Byte) (v : Bool),
    r.toNat = (s.a.toNat + ((if low then 6 else 0) + (if high then 96 else 0))) % 256 ∧
    exec .daa s = .next { s with a := r, ccr := s.ccr.signs r v (s.ccr.c || high) } := by
  refine ⟨(daaAdjust s.a (Config.undefVDaa s.draws) s.ccr).1, Config.undefVDaa s.draws, ?_, ?_⟩
  · rw [← hlow, ← hhigh, ← daaCorrection_toNat]
    exact BitVec.toNat_ofNat _ _
  · have hc : (daaAdjust s.a (Config.undefVDaa s.draws) s.ccr).2 =
        s.ccr.signs (daaAdjust s.a (Config.undefVDaa s.draws) s.ccr).1 (Config.undefVDaa s.draws)
          (s.ccr.c || high) := by
      simp only [daaAdjust, CCR.nz_eq_signs, hhigh]
      rfl
    rw [exec, execDaa, if_pos hl, State.resultA, hc]
    rfl

theorem exec_daa_frame (s : State) : ∃ r n z v c, exec .daa s = .next { s with
    a := r, ccr := { s.ccr with n := n, z := z, v := v, c := c } } := by
  simp only [exec, execDaa]
  split <;> exact ⟨_, _, _, _, _, rfl⟩

/-- DAA on an input of a row of the table, by what the row adds and the C that it sets. -/
theorem exec_daa_row {s : State} {added : Nat} {cAfter : Bool} (hl : daaListed s.a s.ccr = true)
    (hlow : daaLow s.a s.ccr = decide (added % 16 = 6)) (hhigh : daaHigh s.a s.ccr = decide (96 ≤ added))
    (hadd : (if decide (added % 16 = 6) then 6 else 0) + (if decide (96 ≤ added) then 96 else 0) = added)
    (hc : (s.ccr.c || decide (96 ≤ added)) = cAfter) : ∃ (r : Byte) (v : Bool),
    r.toNat = (s.a.toNat + added) % 256 ∧
    exec .daa s = .next { s with a := r, ccr := s.ccr.signs r v cAfter } := by
  have h := exec_daa_listed hl hlow hhigh
  rwa [hadd, hc] at h

/-- Settles O54: each row is listed, and its digits and flags say which of the two digits are corrected. -/
theorem decimalAdjustFollowsItsTable : Obligations.DecimalAdjustFollowsItsTable := by
  unfold Obligations.DecimalAdjustFollowsItsTable
  intro s
  refine ⟨exec_daa_frame s, fun row hrow => ?_⟩
  have hd := s.a.isLt
  simp only [List.mem_cons, List.not_mem_nil, or_false] at hrow
  rcases hrow with rfl | rfl | rfl | rfl | rfl | rfl | rfl | rfl | rfl
  all_goals
    intro hc h1 h2 hh h3 h4
    refine exec_daa_row ?listed ?low ?high rfl (by rw [hc]; rfl)
    case listed => simp [daaListed, hc, hh]; omega
    case low => simp [daaLow, hh] <;> omega
    case high => simp [daaHigh, hc] <;> omega

/-- ADCA by what DAA looks at afterwards: the sum, H as the carry of the low digits and C as that of the bytes. -/
theorem exec_adca_numbers (s : State) (o : Src8) : ∃ t, exec (.adca o) s = .next t ∧
    t.a.toNat = (s.a.toNat + (s.opr8 o).toNat + carryNat s.ccr.c) % 256 ∧
    t.ccr.h = decide (15 < s.a.toNat % 16 + (s.opr8 o).toNat % 16 + carryNat s.ccr.c) ∧
    t.ccr.c = decide (255 < s.a.toNat + (s.opr8 o).toNat + carryNat s.ccr.c) := by
  have hc : s.ccr.c.toNat = carryNat s.ccr.c := by cases s.ccr.c <;> rfl
  rw [← hc]
  exact ⟨_, rfl, BitVec.toNat_ofNat _ _, rfl, rfl⟩

/-- Two decimal digits and a carry: the sum of the high digits `h` and of the low digits `l`, corrected by 6 and by 96,
is the decimal sum modulo 100 as two digits. -/
theorem bcd_corrected {h l r : Nat} (hh : h ≤ 18) (hl : l ≤ 19)
    (hr : r = (16 * h + l + ((if 9 < l then 6 else 0) + if 100 ≤ 10 * h + l then 96 else 0)) % 256) :
    r / 16 * 10 + r % 16 = (10 * h + l) % 100 ∧ r / 16 ≤ 9 ∧ r % 16 ≤ 9 := by
  split at hr <;> split at hr
  · have : r = 16 * (h - 9) + (l - 10) := by omega
    omega
  · have : r = 16 * (h + 1) + (l - 10) := by omega
    omega
  · have : r = 16 * (h - 10) + l := by omega
    omega
  · have : r = 16 * h + l := by omega
    omega

/-- DAA where A, H and C are those of an addition of decimal digits, `h` and `l` the sums of the high and of the low
digits: the input is listed, the low digit is corrected where its sum exceeds 9, the high digit where the decimal sum
reaches 100. -/
theorem daa_after_addition {a : Byte} {f : CCR} {h l : Nat} (hh : h ≤ 18) (hl : l ≤ 19)
    (ha : a.toNat = (16 * h + l) % 256) (hfh : f.h = decide (15 < l)) (hfc : f.c = decide (255 < 16 * h + l)) :
    daaListed a f = true ∧ daaLow a f = decide (9 < l) ∧ daaHigh a f = decide (100 ≤ 10 * h + l) := by
  refine ⟨?_, ?_, ?_⟩
  · cases hH : f.h <;> cases hC : f.c <;> rw [hH, eq_comm] at hfh <;> rw [hC, eq_comm] at hfc <;>
      simp only [decide_eq_true_eq, decide_eq_false_iff_not] at hfh hfc <;> simp [daaListed, hH, hC] <;> omega
  · rw [daaLow, hfh, ← Bool.decide_or]
    exact decide_eq_decide.mpr (by omega)
  · rw [Bool.eq_iff_iff]
    simp only [daaHigh, hfc, Bool.or_eq_true, Bool.and_eq_true, decide_eq_true_eq, beq_iff_eq]
    omega

/-- Settles O56: DAA after the addition corrects the two digits, and the carry of the bytes implies the decimal one. -/
theorem decimalAdjustAfterAdditionIsBcdAddition : Obligations.DecimalAdjustAfterAdditionIsBcdAddition := by
  unfold Obligations.DecimalAdjustAfterAdditionIsBcdAddition
  intro s o ha1 ha0 hm1 hm0
  obtain ⟨t, ht, hta, hth, htc⟩ := exec_adca_numbers s o
  have hk : carryNat s.ccr.c ≤ 1 := by cases s.ccr.c <;> decide
  generalize carryNat s.ccr.c = k at *
  generalize s.a.toNat = x at *
  generalize (s.opr8 o).toNat = y at *
  have hsum : x + y + k = 16 * (x / 16 + y / 16) + (x % 16 + y % 16 + k) := by omega
  have hdec : x / 16 * 10 + x % 16 + (y / 16 * 10 + y % 16) + k =
      10 * (x / 16 + y / 16) + (x % 16 + y % 16 + k) := by omega
  rw [hsum] at hta htc
  rw [hdec]
  generalize x / 16 + y / 16 = h at *
  generalize x % 16 + y % 16 + k = l at *
  obtain ⟨hlisted, hlow, hhigh⟩ := daa_after_addition (by omega) (by omega) hta hth htc
  obtain ⟨r, v, hr, hu⟩ := exec_daa_listed hlisted hlow hhigh
  simp only [decide_eq_true_eq, hta, Nat.mod_add_mod] at hr
  obtain ⟨hvalue, h1, h0⟩ := bcd_corrected (by omega) (by omega) hr
  refine ⟨t, _, ht, hu, hvalue, h1, h0, ?_⟩
  show (t.ccr.c || _) = _
  rw [htc, ← Bool.decide_or]
  exact decide_eq_decide.mpr (by omega)

end Sys2Proof.Machine
end

section
/-! Loads and stores, and what a byte or a word stored is read back as; from this O37, O38, O7 and O8. -/

namespace Sys2Proof.Machine

/-! ### Stores -/

/-- An instruction that stores a byte, in the terms of the statements. -/
theorem storesByte_of_exec {i : Instr} {s : State} {m : Mem} {v : Byte}
    (h : exec i s = .next (s.storeByte m v)) :
    ∃ t, exec i s = .next t ∧ StoresByte s t (s.ea m) v ∧
      t = { s with ccr := s.ccr.signs v false s.ccr.c, mem := t.mem, devices := t.devices } :=
  ⟨_, h, s.storeByte_stores m v, by rw [← CCR.logic_eq_signs]; exact s.storeByte_frame m v⟩

/-- An instruction that stores a word. -/
theorem storesWord_of_exec {i : Instr} {s : State} {m : Mem} {v : Word}
    (h : exec i s = .next (s.storeWord m v)) :
    ∃ t, exec i s = .next t ∧ StoresWord s t (s.ea m) v ∧
      t = { s with ccr := s.ccr.signs v false s.ccr.c, mem := t.mem, devices := t.devices } :=
  ⟨_, h, s.storeWord_stores m v, by rw [← CCR.logic_eq_signs]; exact s.storeWord_frame m v⟩

/-- Settles O38. -/
theorem storesWriteTheirRegister : Obligations.StoresWriteTheirRegister := by
  unfold Obligations.StoresWriteTheirRegister
  exact fun s m => ⟨storesByte_of_exec rfl, storesByte_of_exec rfl, storesWord_of_exec rfl,
    storesWord_of_exec rfl, storesWord_of_exec rfl, storesWord_of_exec rfl⟩

/-! ### Loads -/

/-- The two ways in which the statement gives an 8-bit operand are `opr8`. -/
theorem opr8_of_form {s : State} {o : Src8} {ii x : Byte} {m : Mem}
    (h : (o = .imm ii ∧ x = ii) ∨ (o = .mem m ∧ x = s.readByte (s.ea m))) : s.opr8 o = x := by
  obtain ⟨rfl, rfl⟩ | ⟨rfl, rfl⟩ := h <;> rfl

/-- A word with two given bytes. -/
theorem eq_wordOf_of_toNat {x : Word} {h l : Byte} (hx : x.toNat = 256 * h.toNat + l.toNat) :
    x = wordOf h l :=
  BitVec.eq_of_toNat_eq (hx.trans (wordOf_toNat h l).symm)

/-- The same of a 16-bit operand and its two halves. -/
theorem opr16_of_form {s : State} {o : Src16} {jjkk x : Word} {h l : Byte} {m : Mem}
    (hx : x = wordOf h l)
    (ho : (o = .imm jjkk ∧ x = jjkk) ∨
      (o = .mem m ∧ h = s.readByte (s.ea m) ∧ l = (s.reading (s.ea m)).readByte (s.ea m + 1))) :
    s.opr16 o = x := by
  obtain ⟨rfl, rfl⟩ | ⟨rfl, rfl, rfl⟩ := ho
  · rfl
  · exact hx.symm

/-- Settles O37: the operand, its flags, and for D its halves. -/
theorem loadsFillTheirRegister : Obligations.LoadsFillTheirRegister := by
  unfold Obligations.LoadsFillTheirRegister
  intro s ii jjkk m
  simp only [← CCR.logic_eq_signs]
  refine ⟨fun o x ho => ?_, fun o h l x hx ho => ?_⟩
  · obtain rfl := opr8_of_form ho
    exact ⟨rfl, rfl⟩
  · have hw := eq_wordOf_of_toNat hx
    obtain rfl := opr16_of_form hw ho
    have hh : h = highByte (s.opr16 o) := by rw [hw, highByte_wordOf]
    have hl : l = lowByte (s.opr16 o) := by rw [hw, lowByte_wordOf]
    rw [hh, hl]
    exact ⟨rfl, rfl, rfl, rfl⟩

/-! ### A word stored and read back -/

/-- Storage is no device's. -/
theorem State.IsStorage.plain {s : State} {a : Word} (h : s.IsStorage a) : s.IsPlain a := by
  rw [State.IsStorage] at h
  rw [State.IsPlain, h]
  decide

/-- The cells of a word stored in two cells of storage (R63). -/
theorem HoldsWord.cells {s t : State} {a v : Word} (h : HoldsWord s t a v) (ha : s.IsStorage a)
    (hb : s.IsStorage (a + 1)) :
    t.devices = s.devices ∧ t.readByte a = highByte v ∧ t.readByte (a + 1) = lowByte v := by
  obtain ⟨hd, hr⟩ := h ha.plain hb.plain
  refine ⟨hd, ?_, ?_⟩
  · rw [hr, if_pos ⟨rfl, ha⟩]
  · rw [hr, if_neg fun h' => word_ne_add_one a h'.1, if_pos ⟨rfl, hb⟩]

/-- Settles O7: the two cells of the word stored, read one by one and together. -/
theorem wordsInMemoryAreBigEndian : Obligations.WordsInMemoryAreBigEndian := by
  unfold Obligations.WordsInMemoryAreBigEndian
  intro s a ha hb
  obtain ⟨-, hh, hl⟩ := (s.storeWord_stores (.ext a) s.d).2.cells ha hb
  have hw : (s.storeWord (.ext a) s.d).readWord a = s.d := s.readWord_writeWord a s.d ha hb
  refine ⟨s.storeWord (.ext a) s.d, _, _, _, rfl, rfl, hh.trans (highByte_wordOf _ _), rfl,
    hl.trans (lowByte_wordOf _ _), exec_ldx_mem _ _, ?_⟩
  exact (congrArg BitVec.toNat hw).trans s.d_toNat

/-! ### What stands behind an address -/

/-- A store of a byte, and what the next fetch and the next read see (R62, R64, R67). -/
theorem exec_staa_reaches (s : State) (m : Mem) : ∃ t, exec (.staa m) s = .next t ∧
    (s.IsStorage (s.ea m) → t.fetchByte (s.ea m) = s.a ∧ t.readByte (s.ea m) = s.a) ∧
    (s.IsPlain (s.ea m) → t.devices = s.devices ∧
      ∀ x : Word, x ≠ s.ea m ∨ ¬ s.IsStorage (s.ea m) → t.fetchByte x = s.fetchByte x) ∧
    (s.kindAt (s.ea m) = .device → Acts s t (Config.deviceWrite s.devices (s.ea m) s.a)) := by
  obtain ⟨device, plain⟩ := s.storeByte_stores m s.a
  have fetch : ∀ x, s.IsPlain (s.ea m) → (s.storeByte m s.a).fetchByte x =
      if x = s.ea m ∧ s.kindAt (s.ea m) = .storage then s.a else s.fetchByte x :=
    fun x h => State.fetchByte_writeByte h x s.a
  refine ⟨s.storeByte m s.a, rfl, fun h => ⟨?_, ?_⟩, fun h => ⟨(plain h).1, fun x hx => ?_⟩, device⟩
  · rw [fetch _ h.plain, if_pos ⟨rfl, h⟩]
  · rw [(plain h.plain).2, if_pos ⟨rfl, h⟩]
  · rw [fetch x h, if_neg fun h' => hx.elim (· h'.1) (· h'.2)]

/-- The byte of a storage or read-only cell is that of memory (R62). -/
theorem State.readByte_of_memory {s : State} {a : Word} (h : s.kindAt a = .storage ∨ s.kindAt a = .readOnly) :
    s.readByte a = Memory.read s.mem a.toNat := by
  rcases h with h | h <;> simp only [State.readByte, h]

theorem State.readByte_of_absent {s : State} {a : Word} (h : s.kindAt a = .absent) :
    s.readByte a = Config.absentByte s.draws a := by
  simp only [State.readByte, h]

theorem State.readByte_of_device {s : State} {a : Word} (h : s.kindAt a = .device) :
    s.readByte a = (Config.deviceRead s.devices a).value := by
  simp only [State.readByte, h]

/-- A read of a device's cell is an act of the devices (R62). -/
theorem State.reading_acts {s : State} {a : Word} (h : s.kindAt a = .device) :
    Acts s (s.reading a) (Config.deviceRead s.devices a).act := by
  rw [State.reading_device h]
  exact ⟨rfl, rfl⟩

/-- Settles O8: the byte stored, the byte loaded, and the effect of a read, each by the kind of the cell. -/
theorem accessesReachWhatStandsBehindTheAddress : Obligations.AccessesReachWhatStandsBehindTheAddress := by
  unfold Obligations.AccessesReachWhatStandsBehindTheAddress
  intro s m
  refine ⟨exec_staa_reaches s m,
    ⟨(s.reading (s.ea m)).resultA (s.readByte (s.ea m), s.ccr.logic (s.readByte (s.ea m))), rfl,
      State.readByte_of_memory, State.readByte_of_absent, fun h => ?_,
      fun h => ⟨State.readByte_of_device h, State.reading_acts h⟩⟩,
    fun a => ⟨s.reading_frame a, State.reading_plain, State.reading_acts⟩⟩
  rw [State.reading_plain h]
  exact ⟨rfl, rfl⟩

end Sys2Proof.Machine
end

section
/-! Pushes, pulls, calls and returns as updates of SP and the cells below it, and what a pull straight after a push gives;
from this O49, O52 and O60. -/

namespace Sys2Proof.Machine

/-! ### Pushes and pulls in the terms of the statements (R130 to R133) -/

/-- An instruction that pushes a byte. -/
theorem pushesByte_of_exec {i : Instr} {s : State} {v : Byte} (h : exec i s = .next (s.push8 v)) :
    ∃ t, exec i s = .next t ∧ StoresByte s t s.sp v ∧
      t = { s with sp := s.sp - 1, mem := t.mem, devices := t.devices } :=
  ⟨_, h, s.push8_stores v, s.push8_frame v⟩

/-- An instruction that pushes a word. -/
theorem pushesWord_of_exec {i : Instr} {s : State} {v : Word} (h : exec i s = .next (s.push16 v)) :
    ∃ t, exec i s = .next t ∧ PushesWord s t v ∧
      t = { s with sp := s.sp - 2, mem := t.mem, devices := t.devices } :=
  ⟨_, h, s.push16_stores v, s.push16_frame v⟩

/-- A call: the push of the return address, and PC (R142). -/
theorem calls_of_exec {i : Instr} {s : State} {v target : Word}
    (h : exec i s = .next ((s.push16 v).setPC target)) :
    ∃ t, exec i s = .next t ∧ PushesWord s t v ∧
      t = { s with sp := s.sp - 2, pc := target, mem := t.mem, devices := t.devices } := by
  obtain ⟨stores, holds⟩ := s.push16_stores v
  refine ⟨_, h, ⟨stores.congr rfl rfl, holds⟩, ?_⟩
  apply State.ext_fields <;> simp

/-! ### The codes and counts of the pushes and pulls -/

theorem coded_psha : Coded .psha [0x36] 3 := ⟨rfl, fun _ => rfl, rfl⟩
theorem coded_pshb : Coded .pshb [0x37] 3 := ⟨rfl, fun _ => rfl, rfl⟩
theorem coded_pshx : Coded .pshx [0x3C] 4 := ⟨rfl, fun _ => rfl, rfl⟩
theorem coded_pshy : Coded .pshy [0x18, 0x3C] 5 := ⟨rfl, fun _ => rfl, rfl⟩
theorem coded_pula : Coded .pula [0x32] 4 := ⟨rfl, fun _ => rfl, rfl⟩
theorem coded_pulb : Coded .pulb [0x33] 4 := ⟨rfl, fun _ => rfl, rfl⟩
theorem coded_pulx : Coded .pulx [0x38] 5 := ⟨rfl, fun _ => rfl, rfl⟩
theorem coded_puly : Coded .puly [0x18, 0x38] 6 := ⟨rfl, fun _ => rfl, rfl⟩

/-! ### The pulls of a word as updates of one register -/

theorem exec_pulx (s : State) :
    exec .pulx s = .next { s.readingWord (s.sp + 1) with ix := s.top16, sp := s.sp + 2 } :=
  congrArg (fun u : State => Host.Outcome.next (u.setIX s.top16)) s.drop16_eq

theorem exec_puly (s : State) :
    exec .puly s = .next { s.readingWord (s.sp + 1) with iy := s.top16, sp := s.sp + 2 } :=
  congrArg (fun u : State => Host.Outcome.next (u.setIY s.top16)) s.drop16_eq

theorem exec_rts (s : State) :
    exec .rts s = .next { s.readingWord (s.sp + 1) with pc := s.top16, sp := s.sp + 2 } :=
  congrArg (fun u : State => Host.Outcome.next (u.setPC s.top16)) s.drop16_eq

theorem exec_pula (s : State) :
    exec .pula s = .next { s.reading (s.sp + 1) with a := s.readByte (s.sp + 1), sp := s.sp + 1 } := rfl

/-- Settles O49. -/
theorem pushesAndPulls : Obligations.PushesAndPulls := by
  unfold Obligations.PushesAndPulls
  exact fun s => ⟨pushesByte_of_exec rfl, pushesByte_of_exec rfl, pushesWord_of_exec rfl,
    pushesWord_of_exec rfl, exec_pula s, rfl, ⟨_, s.top16_toNat, exec_pulx s, exec_puly s⟩,
    coded_psha, coded_pshb, coded_pshx, coded_pshy, coded_pula, coded_pulb, coded_pulx, coded_puly⟩

/-- BSR (R245): the target from PC past the instruction. -/
theorem exec_bsr (s : State) (rr : Byte) :
    exec (.bsr rr) s = .next ((s.push16 s.pc).setPC (s.branchTarget rr)) := by
  rw [← State.relTarget_eq]
  rfl

/-- Settles O52. -/
theorem jumpsCallsAndReturns : Obligations.JumpsCallsAndReturns := by
  unfold Obligations.JumpsCallsAndReturns
  exact fun s m rr => ⟨rfl, calls_of_exec rfl, calls_of_exec (exec_bsr s rr), ⟨_, s.top16_toNat, exec_rts s⟩, rfl⟩

/-! ### A pull straight after a push -/

theorem word_above_two (x : Word) : x - 2 + 1 = x - 1 := by
  have h : x - 2 = x - 1 - 1 := (word_sub_sub x 1 1).symm
  rw [h, BitVec.sub_add_cancel]

/-- The word on top of the stack is the word above SP (R133). -/
theorem State.top16_eq_readWord (s : State) : s.top16 = s.readWord (s.sp + 1) := rfl

/-- Where both cells of a word pushed are storage, the pull gives it back, and takes back all but the bytes in
memory. -/
theorem State.pull_after_push16 {s : State} (v : Word) (h0 : s.IsStorage s.sp) (h1 : s.IsStorage (s.sp - 1)) :
    (s.push16 v).top16 = v ∧ (s.push16 v).drop16 = { s with mem := (s.push16 v).mem } := by
  have up : s.sp - 1 + 1 = s.sp := BitVec.sub_add_cancel _ _
  have top : s.sp - 2 + 1 = s.sp - 1 := word_above_two s.sp
  have back : s.sp - 2 + 2 = s.sp := BitVec.sub_add_cancel _ _
  obtain ⟨hd, hh, hl⟩ := (s.push16_stores v).2.cells h1 (up.symm ▸ h0)
  have plain1 : (s.push16 v).kindAt (s.sp - 1) ≠ .device := by
    rw [State.push16_kindAt]
    exact h1.plain
  have plain0 : (s.push16 v).kindAt (s.sp - 1 + 1) ≠ .device := by
    rw [State.push16_kindAt, up]
    exact h0.plain
  constructor
  · rw [State.top16_eq_readWord, State.push16_sp, top, State.readWord, State.reading_plain plain1, hh, hl,
      wordOf_high_low]
  · rw [State.drop16_eq, State.push16_sp, top, back, State.readingWord_plain plain1 plain0]
    conv_lhs => rw [State.push16_frame, hd]

/-- The same of a byte. -/
theorem State.pull_after_push8 {s : State} (v : Byte) (h : s.IsStorage s.sp) :
    (s.push8 v).top8 = v ∧ (s.push8 v).drop8 = { s with mem := (s.push8 v).mem } := by
  have back : s.sp - 1 + 1 = s.sp := BitVec.sub_add_cancel _ _
  obtain ⟨hd, hr⟩ := (s.push8_stores v).2 h.plain
  have plain : (s.push8 v).kindAt s.sp ≠ .device := by
    rw [State.push8_kindAt]
    exact h.plain
  constructor
  · rw [State.top8, State.push8_sp, back, hr, if_pos ⟨rfl, h⟩]
  · rw [State.drop8, State.push8_sp, back, State.reading_plain plain]
    conv_lhs => rw [State.push8_frame, hd]
    rfl

/-- A pull does not depend on PC. -/
theorem State.setPC_drop16 (s : State) (p : Word) : (s.setPC p).drop16 = s.drop16.setPC p := by
  rw [State.drop16_eq, State.drop16_eq]
  apply State.ext_fields <;> simp [State.readingWord, State.setPC_reading]

theorem State.setPC_top16 (s : State) (p : Word) : (s.setPC p).top16 = s.top16 := by
  simp [State.top16_eq_readWord]

/-- RTS straight after a call. -/
theorem rts_after_call {i : Instr} {s : State} {target : Word} (h0 : s.IsStorage s.sp)
    (h1 : s.IsStorage (s.sp - 1)) (h : exec i s = .next ((s.push16 s.pc).setPC target)) :
    ∃ t, exec i s = .next t ∧ exec .rts t = .next { s with mem := t.mem } := by
  obtain ⟨htop, hdrop⟩ := State.pull_after_push16 s.pc h0 h1
  refine ⟨_, h, congrArg Host.Outcome.next ?_⟩
  rw [State.setPC_drop16, State.setPC_top16, htop, hdrop]
  rfl

/-- A pull of the index register `IX` straight after a push. -/
theorem pulx_after_push {i : Instr} {s : State} {v : Word} (h0 : s.IsStorage s.sp)
    (h1 : s.IsStorage (s.sp - 1)) (h : exec i s = .next (s.push16 v)) :
    ∃ t, exec i s = .next t ∧ exec .pulx t = .next { s with ix := v, mem := t.mem } := by
  obtain ⟨htop, hdrop⟩ := State.pull_after_push16 v h0 h1
  refine ⟨_, h, congrArg Host.Outcome.next ?_⟩
  rw [htop, hdrop]
  rfl

/-- The same of IY. -/
theorem puly_after_push {i : Instr} {s : State} {v : Word} (h0 : s.IsStorage s.sp)
    (h1 : s.IsStorage (s.sp - 1)) (h : exec i s = .next (s.push16 v)) :
    ∃ t, exec i s = .next t ∧ exec .puly t = .next { s with iy := v, mem := t.mem } := by
  obtain ⟨htop, hdrop⟩ := State.pull_after_push16 v h0 h1
  refine ⟨_, h, congrArg Host.Outcome.next ?_⟩
  rw [htop, hdrop]
  rfl

theorem pula_after_psha {s : State} (h : s.IsStorage s.sp) :
    ∃ t, exec .psha s = .next t ∧ exec .pula t = .next { s with mem := t.mem } := by
  obtain ⟨htop, hdrop⟩ := State.pull_after_push8 s.a h
  refine ⟨s.push8 s.a, rfl, congrArg Host.Outcome.next ?_⟩
  rw [htop, hdrop]
  rfl

/-- Settles O60. -/
theorem subroutinesReturnAndPushesAreUndone : Obligations.SubroutinesReturnAndPushesAreUndone := by
  unfold Obligations.SubroutinesReturnAndPushesAreUndone
  exact fun s m rr h0 h1 => ⟨rts_after_call h0 h1 rfl, rts_after_call h0 h1 (exec_bsr s rr),
    pulx_after_push h0 h1 rfl, puly_after_push h0 h1 rfl, pula_after_psha h0, puly_after_push h0 h1 rfl⟩

end Sys2Proof.Machine
end

section
/-! Sequences of shifts, rotates and subtractions by bytes: nine rotations are the identity of the nine-bit ring, and two
8-bit operations linked by C are the 16-bit one; from this O58 and O59. -/

namespace Sys2Proof.Machine

/-! ### Rotations of the ring of nine bits -/

/-- One place round the ring that a byte and C form (R139). -/
def rolledRing (p : Byte × Bool) : Byte × Bool := (p.1.extractLsb' 0 7 ++ BitVec.ofBool p.2, p.1.msb)

/-- ROLA on the state (R358). -/
def State.rolledA (s : State) : State := s.resultA (rol8 s.a s.ccr)

theorem exec_rola (s : State) : exec .rola s = .next s.rolledA := rfl

/-- ROLA turns the ring of A and C, and writes N, Z and V beside. -/
theorem State.rolledA_eq (s : State) : ∃ n z v, s.rolledA = { s with
    a := (rolledRing (s.a, s.ccr.c)).1
    ccr := { s.ccr with n := n, z := z, v := v, c := (rolledRing (s.a, s.ccr.c)).2 } } :=
  ⟨_, _, _, rfl⟩

theorem State.iterate_rolledA_eq (s : State) (k : Nat) : ∃ n z v, State.rolledA^[k] s = { s with
    a := (rolledRing^[k] (s.a, s.ccr.c)).1
    ccr := { s.ccr with n := n, z := z, v := v, c := (rolledRing^[k] (s.a, s.ccr.c)).2 } } := by
  induction k with
  | zero => exact ⟨_, _, _, rfl⟩
  | succ k ih =>
    obtain ⟨_, _, _, hk⟩ := ih
    obtain ⟨n, z, v, hs⟩ := (State.rolledA^[k] s).rolledA_eq
    refine ⟨n, z, v, ?_⟩
    rw [Function.iterate_succ_apply', Function.iterate_succ_apply', hs, hk]

/-- Nine places are once round. -/
theorem iterate_rolledRing_nine (x : Byte) (c : Bool) : rolledRing^[9] (x, c) = (x, c) := by
  revert x c
  decide +kernel

/-- Settles O58. -/
theorem nineRotationsRestoreTheByte : Obligations.NineRotationsRestoreTheByte := by
  unfold Obligations.NineRotationsRestoreTheByte
  intro s
  obtain ⟨n, z, v, h⟩ := s.iterate_rolledA_eq 9
  rw [iterate_rolledRing_nine] at h
  exact ⟨fun k => State.rolledA^[k] s, rfl,
    fun k _ => (exec_rola _).trans
      (congrArg Host.Outcome.next (Function.iterate_succ_apply' State.rolledA k s).symm), n, z, v, h⟩

/-! ### Two bytes linked by C as one word -/

theorem wordOf_msb (h l : Byte) : (wordOf h l).msb = h.msb := by
  have := l.isLt
  rw [BitVec.msb_eq_decide, BitVec.msb_eq_decide, wordOf_toNat]
  exact decide_eq_decide.mpr (by omega)

/-- A left shift of the low byte, then a left rotate of the high byte (R139). -/
theorem wordOf_rol8_asl (h l : Byte) (f g : CCR) :
    wordOf (rol8 h (asl l f).2).1 (asl l f).1 = (asl (wordOf h l) g).1 := by
  obtain ⟨hlow, -⟩ := asl_shiftsLeft l f
  obtain ⟨hhigh, -⟩ := rol8_rotatesLeft h (asl l f).2
  obtain ⟨hword, -⟩ := asl_word (wordOf h l) g
  have hc : (asl l f).2.c = decide (128 ≤ l.toNat) := BitVec.msb_eq_decide l
  have := h.isLt
  have := l.isLt
  apply BitVec.eq_of_toNat_eq
  rw [wordOf_toNat] at hword ⊢
  rw [hhigh, hlow, hword, hc, carryNat]
  by_cases hl : 128 ≤ l.toNat <;> simp only [hl, decide_true, decide_false, if_true, Bool.false_eq_true, if_false] <;>
    omega

/-- A right shift of the high byte, then a right rotate of the low byte (R139). -/
theorem wordOf_lsr_ror8 (h l : Byte) (f g : CCR) :
    wordOf (lsr h f).1 (ror8 l (lsr h f).2).1 = (lsr (wordOf h l) g).1 := by
  obtain ⟨hhigh, -⟩ := lsr_halvesUnsigned h f
  obtain ⟨hlow, -⟩ := ror8_rotatesRight l (lsr h f).2
  obtain ⟨hword, -⟩ := lsr_word (wordOf h l) g
  have hc : (lsr h f).2.c = decide (h.toNat % 2 = 1) := bit0_eq h
  have := h.isLt
  have := l.isLt
  apply BitVec.eq_of_toNat_eq
  rw [wordOf_toNat] at hword ⊢
  rw [hhigh, hlow, hword, hc, carryNat]
  by_cases hh : h.toNat % 2 = 1 <;> simp only [hh, decide_true, decide_false, if_true, Bool.false_eq_true, if_false] <;>
    omega

/-- A subtraction of the low bytes, then of the high bytes with the borrow (R136, R138). -/
theorem wordOf_sub8_sub8 (a b h l : Byte) (f f' g : CCR) :
    wordOf (sub8 a h (sub8 b l false f).2.c f').1 (sub8 b l false f).1 =
      (sub16 (wordOf a b) (wordOf h l) g).1 := by
  have hlow := sub8_fst_toNat b l false f
  have hhigh := sub8_fst_toNat a h (sub8 b l false f).2.c f'
  have hword := sub16_fst_toNat (wordOf a b) (wordOf h l) g
  have hc := sub8_c b l f
  have := b.isLt
  have := l.isLt
  apply BitVec.eq_of_toNat_eq
  rw [wordOf_toNat] at hword ⊢
  rw [wordOf_toNat] at hword
  cases hb : (sub8 b l false f).2.c <;> rw [hb] at hhigh hc <;>
    simp only [Bool.toNat_false, Bool.toNat_true, Bool.false_eq_true, false_iff, true_iff] at hlow hhigh hc ⊢ <;>
    omega

/-- The borrow of the high bytes is that of the words. -/
theorem sub8_sub8_c (a b h l : Byte) (f f' g : CCR) :
    (sub8 a h (sub8 b l false f).2.c f').2.c = (sub16 (wordOf a b) (wordOf h l) g).2.c := by
  have hc := sub8_c b l f
  have := b.isLt
  have := l.isLt
  refine decide_eq_decide.mpr ?_
  rw [wordOf_toNat, wordOf_toNat]
  cases hb : (sub8 b l false f).2.c <;> rw [hb] at hc <;>
    simp only [Bool.toNat_false, Bool.toNat_true, Bool.false_eq_true, false_iff, true_iff] at hc ⊢ <;> omega

/-- ASLB; ROLA and ASLD. -/
theorem aslb_rola_asld (s : State) : ∃ t u w, exec .aslb s = .next t ∧ exec .rola t = .next u ∧
    exec .asld s = .next w ∧ u.d = w.d ∧ u.ccr.n = w.ccr.n ∧ u.ccr.v = w.ccr.v ∧ u.ccr.c = w.ccr.c := by
  have hd := wordOf_rol8_asl s.a s.b s.ccr s.ccr
  have hn : (rol8 s.a (asl s.b s.ccr).2).1.msb = (asl s.d s.ccr).1.msb := by
    rw [← wordOf_msb, hd]
    rfl
  have hc : s.a.msb = s.d.msb := (wordOf_msb s.a s.b).symm
  exact ⟨_, _, _, rfl, rfl, rfl, hd.trans (wordOf_high_low _).symm, hn, congrArg₂ Bool.xor hn hc, hc⟩

/-- LSRA; RORB and LSRD. -/
theorem lsra_rorb_lsrd (s : State) : ∃ t u w, exec .lsra s = .next t ∧ exec .rorb t = .next u ∧
    exec .lsrd s = .next w ∧ u.d = w.d ∧ u.ccr.c = w.ccr.c := by
  have hd := wordOf_lsr_ror8 s.a s.b s.ccr s.ccr
  have hc : s.b.getLsbD 0 = s.d.getLsbD 0 := by
    rw [State.d, wordOf, BitVec.getLsbD_append]
    rfl
  exact ⟨_, _, _, rfl, rfl, rfl, hd.trans (wordOf_high_low _).symm, hc⟩

/-- SUBB and SBCA of immediate bytes and SUBD of the word. -/
theorem subb_sbca_subd (s : State) (h l : Byte) : ∃ t u w, exec (.subb (.imm l)) s = .next t ∧
    exec (.sbca (.imm h)) t = .next u ∧ exec (.subd (.imm (wordOf h l))) s = .next w ∧
    u.d = w.d ∧ u.ccr.n = w.ccr.n ∧ u.ccr.v = w.ccr.v ∧ u.ccr.c = w.ccr.c := by
  have hd := wordOf_sub8_sub8 s.a s.b h l s.ccr (sub8 s.b l false s.ccr).2 s.ccr
  have hn : (sub8 s.a h (sub8 s.b l false s.ccr).2.c (sub8 s.b l false s.ccr).2).1.msb =
      (sub16 s.d (wordOf h l) s.ccr).1.msb := by
    rw [← wordOf_msb, hd]
    rfl
  have hv : s.a.msb = s.d.msb := (wordOf_msb s.a s.b).symm
  refine ⟨_, _, _, rfl, rfl, rfl, hd.trans (wordOf_high_low _).symm, hn, ?_, sub8_sub8_c _ _ _ _ _ _ _⟩
  exact congrArg₂ (fun x y => x && y) (congrArg₂ (fun x y => x != y) hv (wordOf_msb h l).symm)
    (congrArg₂ (fun x y => x != y) hn hv)

/-- Settles O59. -/
theorem wideOperationsByBytes : Obligations.WideOperationsByBytes := by
  unfold Obligations.WideOperationsByBytes
  exact fun s h l => ⟨aslb_rola_asld s, lsra_rorb_lsrd s, subb_sbca_subd s h l⟩

end Sys2Proof.Machine
end
